-- ==== Sys2Proof/Word.lean ====
section
/-! DEFINITION. The word types of the block (00_scope.md R11, 30_encoding.md R100): every quantity is
unsigned; bit 7 of a byte is its most significant bit. -/

namespace Sys2Proof

/-- `byte`, 0 to 255. -/
abbrev Byte := BitVec 8
/-- `u4`, 0 to 15: a logical endpoint id. -/
abbrev U4 := BitVec 4
/-- `u16`, 0 to 65535. -/
abbrev U16 := BitVec 16
/-- `u32`, 0 to 4294967295. -/
abbrev U32 := BitVec 32

end Sys2Proof
end

