-- ==== Sys2Proof/Config.lean ====
section
/-! DEFINITION. The constants fixed by the source (00_scope.md R5), the configuration record `Cfg`
(R6), its well-formedness (R7) and the concrete record `Cfg0` of the spec's own examples.
Statements quantify over every well-formed `Cfg`; `Cfg0` only makes the machine concrete. -/

namespace Sys2Proof

/-! R5: constants that are not parameters. -/

/-- `LEN_MIN`, the least legal length field. -/
abbrev lenMin : Nat := 6
/-- `LEN_MAX`, the greatest legal length field. -/
abbrev lenMax : Nat := 255
/-- `HDR_COUNTED`, the header bytes the length field counts. -/
abbrev hdrCounted : Nat := 6
/-- `OVERHEAD`, the bytes the length field does not count. -/
abbrev overhead : Nat := 3
/-- `PLD_MAX`, the greatest payload length. -/
abbrev pldMax : Nat := 249
/-- `FRAME_MAX`, the greatest frame on the wire; each buffer has this many bytes (10_state.md R33). -/
abbrev frameMax : Nat := 258
/-- `TELEM_LEN`, the telemetry body. -/
abbrev telemLen : Nat := 78
/-- `PAGE_LEN`, the flash page body. -/
abbrev pageLen : Nat := 128
/-- `TIME_LEN`, the set-time payload. -/
abbrev timeLen : Nat := 8
/-- `DELAY_LEN`, the reboot delay. -/
abbrev delayLen : Nat := 4
/-- The most elements a data record holds (30_encoding.md R94). -/
abbrev dataMax : Nat := 124
/-- `OFF_START_A`. -/
abbrev offStartA : Nat := 0
/-- `OFF_START_B`. -/
abbrev offStartB : Nat := 1
/-- `OFF_LEN`. -/
abbrev offLen : Nat := 2
/-- `OFF_HWID`, low byte; the high byte is at 4. -/
abbrev offHwid : Nat := 3
/-- `OFF_MSGID`, low byte; the high byte is at 6. -/
abbrev offMsgid : Nat := 5
/-- `OFF_ADDR`. -/
abbrev offAddr : Nat := 7
/-- `OFF_OPCODE`. -/
abbrev offOpcode : Nat := 8
/-- `OFF_PLD`, the first payload byte. -/
abbrev offPld : Nat := 9

/-- `UNRECOGNIZED_POLICY` (R6, 42_reply_demux.md R211): the two policies the source names. -/
inductive UnrecognizedPolicy where
  | noReply
  | nack
  deriving DecidableEq, Repr

/-- The configuration record (R6), fixed when the block is instantiated (10_state.md R31). -/
structure Cfg where
  startA : Byte
  startB : Byte
  opcBootloaderPing : Byte
  opcBootloaderAck : Byte
  opcCommonNack : Byte
  opcBootloaderWritePage : Byte
  opcBootloaderJump : Byte
  opcBootloaderErase : Byte
  opcBootloaderNack : Byte
  opcCommonAck : Byte
  opcCommonAscii : Byte
  opcReboot : Byte
  opcGetTime : Byte
  opcSetTime : Byte
  opcDataRecord : Byte
  opcGetTelemetry : Byte
  opcTelemetryReport : Byte
  reasonPong : Byte
  reasonErased : Byte
  reasonJump : Byte
  maxDelay : U32
  unrecognizedPolicy : UnrecognizedPolicy
  dataMsbFirst : Bool
  deriving DecidableEq, Repr

/-- The fifteen named opcode values (30_encoding.md R95). -/
def Cfg.opcodes (c : Cfg) : List Byte :=
  [c.opcBootloaderPing, c.opcBootloaderAck, c.opcBootloaderWritePage, c.opcBootloaderJump,
    c.opcBootloaderErase, c.opcBootloaderNack, c.opcCommonAck, c.opcCommonAscii, c.opcReboot,
    c.opcGetTime, c.opcSetTime, c.opcDataRecord, c.opcGetTelemetry, c.opcTelemetryReport,
    c.opcCommonNack]

/-- R7: the opcode values are pairwise distinct, and the four values the source gives stand.
Nothing is asked of the start markers or of the other reason codes. The spec states its rules for a
well-formed configuration only; what the machine does under another is the model's choice (log 19). -/
structure Cfg.WellFormed (c : Cfg) : Prop where
  distinct : c.opcodes.Nodup
  ping : c.opcBootloaderPing = 0x00#8
  ack : c.opcBootloaderAck = 0x01#8
  nack : c.opcCommonNack = 0xff#8
  pong : c.reasonPong = 0x00#8

/-- The concrete record `Cfg0` (R6). Four values are the source's (ping, ack, common-nack, pong);
the others are PRESUMED ("from general knowledge, not in source", log 2) and the two policies
DESIGN CHOICE (log 3). Unsafe for any claim that rests on one of them. -/
def Cfg0 : Cfg where
  startA := 0x22#8
  startB := 0x69#8
  opcBootloaderPing := 0x00#8
  opcBootloaderAck := 0x01#8
  opcCommonNack := 0xff#8
  opcBootloaderWritePage := 0x02#8
  opcBootloaderJump := 0x0b#8
  opcBootloaderErase := 0x0c#8
  opcBootloaderNack := 0x0f#8
  opcCommonAck := 0x10#8
  opcCommonAscii := 0x11#8
  opcReboot := 0x12#8
  opcGetTime := 0x13#8
  opcSetTime := 0x14#8
  opcDataRecord := 0x16#8
  opcGetTelemetry := 0x17#8
  opcTelemetryReport := 0x18#8
  reasonPong := 0x00#8
  reasonErased := 0x01#8
  reasonJump := 0xff#8
  maxDelay := 1000#32
  unrecognizedPolicy := .noReply
  dataMsbFirst := true

end Sys2Proof
end

