-- ==== Sys2Proof/Syntax.lean ====
section
/-! DEFINITION. The syntax: one constructor for each row of spec/opcode_table.json. The first sixteen
are the request frames (30_encoding.md R95), which `REPLY_GEN` fetches from `RX` and runs (log 6);
the last sixteen are the host's operations (R100, R103). -/

namespace Sys2Proof

/-- The fields of a frame apart from its opcode (30_encoding.md R80): the length field is
`6 + payload.length`, the start markers are constants of the configuration. -/
structure Request where
  hwid : U16
  msgid : U16
  src : U4
  dst : U4
  payload : List Byte
  deriving DecidableEq, Repr

/-- The device state and clock reading presented with one `REPLY_GEN` (42_reply_demux.md R191). -/
structure DeviceState where
  bootMode : Bool
  flashWriteOk : Bool
  timeSet : Bool
  nowSec : U32
  nowNsec : U32
  deriving DecidableEq, Repr

inductive Instr where
  /-- R203 -/
  | bootloaderPing (q : Request) (d : DeviceState)
  /-- R201 -/
  | bootloaderAck (q : Request) (d : DeviceState)
  /-- R204 -/
  | bootloaderWritePage (q : Request) (d : DeviceState)
  /-- R205 -/
  | bootloaderJump (q : Request) (d : DeviceState)
  /-- R202 -/
  | bootloaderErase (q : Request) (d : DeviceState)
  /-- R206 -/
  | bootloaderNack (q : Request) (d : DeviceState)
  /-- R207 -/
  | commonAck (q : Request) (d : DeviceState)
  /-- R208 -/
  | commonAscii (q : Request) (d : DeviceState)
  /-- R198 -/
  | reboot (q : Request) (d : DeviceState)
  /-- R197 -/
  | getTime (q : Request) (d : DeviceState)
  /-- R199 -/
  | setTime (q : Request) (d : DeviceState)
  /-- R210 -/
  | dataRecord (q : Request) (d : DeviceState)
  /-- R196 -/
  | getTelemetry (q : Request) (d : DeviceState)
  /-- R200 -/
  | telemetryReport (q : Request) (d : DeviceState)
  /-- R209 -/
  | commonNack (q : Request) (d : DeviceState)
  /-- The row "(unrecognized)", R211: any other opcode byte. -/
  | unrecognized (op : Byte) (q : Request) (d : DeviceState)
  /-- R270 -/
  | reset
  /-- R136 -/
  | status
  /-- R121 -/
  | rxByte (b : Byte)
  /-- R133 -/
  | rxRead
  /-- R134 -/
  | rxClear
  /-- R152 -/
  | txNew (opcode : Byte) (hwid msgid : U16) (src dst : U4)
  /-- R156 -/
  | txSetDelay (delay : U32)
  /-- R157 -/
  | txSetTime (sec nsec : U32)
  /-- R158 -/
  | txSetTelem (buf : List Byte)
  /-- R159 -/
  | txSetPage (page : Byte) (body : List Byte)
  /-- R160 -/
  | txSetAscii (str : List Byte)
  /-- R161 -/
  | txSetData (vals : List U16)
  /-- R172 -/
  | txSerialize
  /-- R192 -/
  | replyGen (d : DeviceState)
  /-- R216 -/
  | rplSerialize
  /-- R217 -/
  | rplClear
  deriving DecidableEq, Repr

end Sys2Proof
end

