-- ==== Sys2Proof/WellFormed.lean ====
section
/-! DEFINITION. Which terms of the syntax stand for something a frame can spell: a frame's payload has
at most 249 bytes (30_encoding.md R88), and an "(unrecognized)" frame's opcode is none of the fifteen
named ones (R95). Operands of operations are typed (R100), so every operation is well-formed: a
wrong-size operand is a setter's no-op or refusal, not ill-formed. -/

namespace Sys2Proof

/-- R88: payload of 0 to 249 bytes. -/
def Request.wellFormed (q : Request) : Bool := decide (q.payload.length ≤ pldMax)

/-- Well-formedness under a configuration. -/
def Instr.wellFormed (c : Cfg) : Instr → Bool
  | .bootloaderPing q _ | .bootloaderAck q _ | .bootloaderWritePage q _ | .bootloaderJump q _
  | .bootloaderErase q _ | .bootloaderNack q _ | .commonAck q _ | .commonAscii q _
  | .reboot q _ | .getTime q _ | .setTime q _ | .dataRecord q _ | .getTelemetry q _
  | .telemetryReport q _ | .commonNack q _ => q.wellFormed
  | .unrecognized op q _ => q.wellFormed && !c.opcodes.contains op
  | .reset | .status | .rxByte _ | .rxRead | .rxClear | .txNew _ _ _ _ _ | .txSetDelay _
  | .txSetTime _ _ | .txSetTelem _ | .txSetPage _ _ | .txSetAscii _ | .txSetData _
  | .txSerialize | .replyGen _ | .rplSerialize | .rplClear => true

/-- Whether the term is one of the sixteen operations the host issues (R100), as against a request
frame, which only `REPLY_GEN` runs. -/
def Instr.isOperation : Instr → Bool
  | .bootloaderPing _ _ | .bootloaderAck _ _ | .bootloaderWritePage _ _ | .bootloaderJump _ _
  | .bootloaderErase _ _ | .bootloaderNack _ _ | .commonAck _ _ | .commonAscii _ _
  | .reboot _ _ | .getTime _ _ | .setTime _ _ | .dataRecord _ _ | .getTelemetry _ _
  | .telemetryReport _ _ | .commonNack _ _ | .unrecognized _ _ _ => false
  | .reset | .status | .rxByte _ | .rxRead | .rxClear | .txNew _ _ _ _ _ | .txSetDelay _
  | .txSetTime _ _ | .txSetTelem _ | .txSetPage _ _ | .txSetAscii _ | .txSetData _
  | .txSerialize | .replyGen _ | .rplSerialize | .rplClear => true

end Sys2Proof
end

