-- ==== Sys2Proof/Decode.lean ====
section
/-! DEFINITION. Byte order and field helpers (00_scope.md R12, 20_memory.md R50 to R52), the frame
decoder of the instruction set, total on any bytes and refusing by name, and after it the encoder.
Only frames have an encoding: the operations have none (30_encoding.md R103). -/

namespace Sys2Proof

/-! ### Field helpers -/

/-- Little-endian store of the low `8n` bits of `v`: the bytes `MemWrite(B, off, n, v)` writes (R12). -/
def leBytes : Nat → Nat → List Byte
  | 0, _ => []
  | n + 1, v => BitVec.ofNat 8 v :: leBytes n (v / 256)

/-- Little-endian assembly: the sum of `b_k * 256^k`, what `MemRead` yields (R12). -/
def leValue : List Byte → Nat
  | [] => 0
  | b :: bs => b.toNat + 256 * leValue bs

/-- `hi4(b)` is `b[7:4]` (R12). -/
def hi4 (b : Byte) : U4 := b.extractLsb' 4 4

/-- `lo4(b)` is `b[3:0]` (R12). -/
def lo4 (b : Byte) : U4 := b.extractLsb' 0 4

/-- The addressing byte, `16 * src + dst` (30_encoding.md R86). -/
def packAddr (src dst : U4) : Byte := src ++ dst

/-- The byte with its two nibbles exchanged (R12), the address bounce. -/
def swap4 (b : Byte) : Byte := packAddr (lo4 b) (hi4 b)

/-- One data-record element in the order `DATA_MSB_FIRST` fixes (20_memory.md R52). -/
def dataElement (msbFirst : Bool) (v : U16) : List Byte :=
  if msbFirst then (leBytes 2 v.toNat).reverse else leBytes 2 v.toNat

/-- The payload length a length byte declares, `L - 6` (30_encoding.md R81b). R81 gives it for `L >= 6`
only; DESIGN CHOICE (log 18): for a lesser `L` it is 0. -/
def pldLen (len : Byte) : Nat := len.toNat - hdrCounted

/-- The length byte of a frame with an `n`-byte payload, `6 + n` (R81b); `n` is at most 249. -/
def lenByte (n : Nat) : Byte := BitVec.ofNat 8 (hdrCounted + n)

/-! ### Decoder -/

/-- Why bytes spell no frame: named refusals of the decoder (R97, R98). -/
inductive DecodeError where
  /-- The byte at offset 0 is not `START_A`. -/
  | badStartA
  /-- The byte at offset 1 is not `START_B`. -/
  | badStartB
  /-- The length byte is less than 6. -/
  | badLength
  /-- The bytes end before the frame does. -/
  | truncated
  deriving DecidableEq, Repr

/-- The row an opcode byte selects (30_encoding.md R95): one of fifteen, or unrecognized (R99). Under a
well-formed configuration at most one matches, so the order of comparison does not matter
(42_reply_demux.md R195). DESIGN CHOICE (log 19): under one that gives two opcodes one value, for which
00_scope.md R7 states no behaviour, the first match in this order is taken. -/
def instrOf (c : Cfg) (op : Byte) (q : Request) (d : DeviceState) : Instr :=
  if op = c.opcBootloaderPing then .bootloaderPing q d
  else if op = c.opcBootloaderAck then .bootloaderAck q d
  else if op = c.opcBootloaderWritePage then .bootloaderWritePage q d
  else if op = c.opcBootloaderJump then .bootloaderJump q d
  else if op = c.opcBootloaderErase then .bootloaderErase q d
  else if op = c.opcBootloaderNack then .bootloaderNack q d
  else if op = c.opcCommonAck then .commonAck q d
  else if op = c.opcCommonAscii then .commonAscii q d
  else if op = c.opcReboot then .reboot q d
  else if op = c.opcGetTime then .getTime q d
  else if op = c.opcSetTime then .setTime q d
  else if op = c.opcDataRecord then .dataRecord q d
  else if op = c.opcGetTelemetry then .getTelemetry q d
  else if op = c.opcTelemetryReport then .telemetryReport q d
  else if op = c.opcCommonNack then .commonNack q d
  else .unrecognized op q d

/-- The frame at the head of a byte sequence, with the bytes after it (R80, R82). `d` is the device
state presented with the frame; it is no part of the encoding (log 6). -/
def decode (c : Cfg) (d : DeviceState) : List Byte → Except DecodeError (Instr × List Byte)
  | a :: b :: len :: h0 :: h1 :: m0 :: m1 :: addr :: op :: rest =>
    if a ≠ c.startA then .error .badStartA
    else if b ≠ c.startB then .error .badStartB
    else if len.toNat < lenMin then .error .badLength
    else if rest.length < pldLen len then .error .truncated
    else
      .ok (instrOf c op
          { hwid := BitVec.ofNat 16 (leValue [h0, h1])
            msgid := BitVec.ofNat 16 (leValue [m0, m1])
            src := hi4 addr
            dst := lo4 addr
            payload := rest.take (pldLen len) } d,
        rest.drop (pldLen len))
  | _ => .error .truncated

/-! ### Encoder -/

/-- The bytes of a frame (30_encoding.md R80), also what the serializer puts on the wire (R170). -/
def frameOf (c : Cfg) (op : Byte) (q : Request) : List Byte :=
  [c.startA, c.startB, lenByte q.payload.length]
    ++ leBytes 2 q.hwid.toNat ++ leBytes 2 q.msgid.toNat
    ++ [packAddr q.src q.dst, op] ++ q.payload

/-- The opcode byte, fields and device state of a request frame; none for an operation. -/
def Instr.request (c : Cfg) : Instr → Option (Byte × Request × DeviceState)
  | .bootloaderPing q d => some (c.opcBootloaderPing, q, d)
  | .bootloaderAck q d => some (c.opcBootloaderAck, q, d)
  | .bootloaderWritePage q d => some (c.opcBootloaderWritePage, q, d)
  | .bootloaderJump q d => some (c.opcBootloaderJump, q, d)
  | .bootloaderErase q d => some (c.opcBootloaderErase, q, d)
  | .bootloaderNack q d => some (c.opcBootloaderNack, q, d)
  | .commonAck q d => some (c.opcCommonAck, q, d)
  | .commonAscii q d => some (c.opcCommonAscii, q, d)
  | .reboot q d => some (c.opcReboot, q, d)
  | .getTime q d => some (c.opcGetTime, q, d)
  | .setTime q d => some (c.opcSetTime, q, d)
  | .dataRecord q d => some (c.opcDataRecord, q, d)
  | .getTelemetry q d => some (c.opcGetTelemetry, q, d)
  | .telemetryReport q d => some (c.opcTelemetryReport, q, d)
  | .commonNack q d => some (c.opcCommonNack, q, d)
  | .unrecognized op q d => some (op, q, d)
  | .reset | .status | .rxByte _ | .rxRead | .rxClear | .txNew _ _ _ _ _ | .txSetDelay _
  | .txSetTime _ _ | .txSetTelem _ | .txSetPage _ _ | .txSetAscii _ | .txSetData _
  | .txSerialize | .replyGen _ | .rplSerialize | .rplClear => none

/-- The bytes that spell an instruction; none for an operation, which has no encoding (R103). -/
def encode (c : Cfg) (i : Instr) : Option (List Byte) :=
  (i.request c).map fun r => frameOf c r.1 r.2.1

/-! ### The table's words -/

/-- Device inputs all 0, for a word of the table, which gives them no bits (log 13). -/
def DeviceState.zero : DeviceState :=
  { bootMode := false, flashWriteOk := false, timeSet := false, nowSec := 0, nowNsec := 0 }

/-- The frame that a word of the opcode table stands for. The table's bits 7..0 are the opcode byte,
"frame offset 8"; the bits it gives beyond them are payload bytes, offset 9 on. The header bytes it
gives no bits are 0, but for the start markers and the length byte, which R80 fixes (log 13). -/
def tableFrame (c : Cfg) (nbits w : Nat) : List Byte :=
  match leBytes (nbits / 8) w with
  | [] => []
  | op :: payload =>
    if payload.length ≤ pldMax then
      frameOf c op { hwid := 0, msgid := 0, src := 0, dst := 0, payload := payload }
    else []

/-- What the decoder reads from a word of the opcode table, under `Cfg0`. -/
def decodeTableWord (nbits w : Nat) : Option Instr :=
  match decode Cfg0 DeviceState.zero (tableFrame Cfg0 nbits w) with
  | .ok (i, _) => some i
  | .error _ => none

end Sys2Proof
end

