-- ==== Sys2Proof/Machine/State.lean ====
section
/-! DEFINITION. The state: the record of 10_state.md R20, and three fields of the model's own
(configuration, the operations the host has yet to issue, the outputs so far). The reasons a step can
stop. The state after reset. -/

namespace Sys2Proof.Machine

/-- `rx_state` (10_state.md R21), in the source's order; a name says which byte is awaited. The source
gives no numeric encoding and none is observable. -/
inductive RxState where
  | awaitStart0
  | awaitStart1
  | awaitLength
  | hwidLsb
  | hwidMsb
  | msgIdLsb
  | msgIdMsb
  /-- Awaits the whole addressing byte, source id included; the name is the source's
  (90_conflicts.md C1). -/
  | destId
  | opcode
  | payload
  | complete
  deriving DecidableEq, Repr

/-- The three frame buffers, three separate address spaces (10_state.md R25, R33). -/
inductive BufferId where
  | rx
  | cmd
  | rpl
  deriving DecidableEq, Repr

/-- A frame buffer: the bytes that hold a value, by wire offset 0 to 257 (10_state.md R33). An offset
that is not listed holds no value (R27), so an unlisted offset reads as nothing and every listed one
is kept. Canonical form: offsets strictly rising (`bufferWf`). -/
abbrev Buffer := List Host.Cell

/-- What `REPLY_GEN` reports (42_reply_demux.md R222). -/
inductive ReplyOutcome where
  | notInvoked
  | noReply
  | replied
  deriving DecidableEq, Repr

/-- The output of one operation (30_encoding.md R100). -/
inductive Output where
  /-- Output `none`: RESET, RX_CLEAR, TX_NEW, the setters, RPL_CLEAR. -/
  | nothing
  /-- RX_BYTE's `consumed`. -/
  | consumed (c : Bool)
  /-- RX_READ's `none` or `some(frame)`. -/
  | read (frame : Option (List Byte))
  /-- STATUS's triple. -/
  | status (rxComplete rplPending cmdValid : Bool)
  /-- The bytes of TX_SERIALIZE or RPL_SERIALIZE, for the byte sink. -/
  | frame (bytes : List Byte)
  /-- REPLY_GEN's outcome. -/
  | reply (r : ReplyOutcome)
  deriving DecidableEq, Repr

/-- The state. The seven fields from `rxState` to `rplEmpty` are the whole state of the block
(10_state.md R20); `cfg`, `host` and `outputs` are the model's own (logs 1, 4, 5). -/
structure State where
  /-- The configuration, which no operation changes (R31). -/
  cfg : Cfg
  /-- `rx_state` (R21, R22). -/
  rxState : RxState
  /-- `rx_cnt`, payload bytes stored so far, 0 to 249 (R23). -/
  rxCnt : Nat
  /-- `RX` (R33). -/
  rx : Buffer
  /-- `CMD` (R33). -/
  cmd : Buffer
  /-- `cmd_valid` (R30). -/
  cmdValid : Bool
  /-- `RPL` (R33). -/
  rpl : Buffer
  /-- `rpl_empty` (R29). -/
  rplEmpty : Bool
  /-- The operations the host has yet to issue, oldest first (00_scope.md R9). -/
  host : List Instr
  /-- One output for each operation performed, newest first (00_scope.md R8). -/
  outputs : List Output
  deriving DecidableEq, Repr

/-- Why the machine stops where the spec says nothing can happen. The block itself raises no fault
(60_exceptions.md R240); each of these stands for a state that no run reaches. -/
inductive Fault where
  /-- Raised by a read of a buffer byte that holds no value (10_state.md R27, log 8). Safe: the spec
  says no rule reads one, and the model observes none. -/
  | noValue (b : BufferId) (off : Nat)
  /-- Raised by RX_BYTE where `9 + rx_cnt` is above 257, an offset no buffer has (10_state.md R33,
  R34, log 9). Safe. -/
  | noSuchOffset (b : BufferId) (off : Nat)
  /-- Raised by RX_READ and REPLY_GEN where a `Complete` receive buffer, and by TX_SERIALIZE and
  RPL_SERIALIZE where the buffer to be sent, holds no whole frame (log 10). Safe. -/
  | notAFrame (b : BufferId)
  deriving DecidableEq, Repr

/-- Why a step has no next state although the machine is sound. -/
inductive Refusal where
  /-- Raised by `exec` for an instruction without a meaning yet. Safe. -/
  | notModelled (mnemonic : String)
  /-- Raised by REPLY_GEN on a reboot request whose payload length is neither 0 nor 4
  (42_reply_demux.md R198, U3). Safe: the spec refuses it. -/
  | rebootPayloadLength
  /-- Raised by REPLY_GEN on a write-page request with an empty payload in the echo branch
  (42_reply_demux.md R204, U4). Safe: the spec refuses it. -/
  | writePageNoPageNumber
  /-- Raised by TX_SET_DATA with more than 124 elements on a data-record frame
  (41_command_encoder.md R161, U5). Safe: the spec refuses it. -/
  | dataRecordTooLong
  /-- Raised by TX_SERIALIZE before any TX_NEW (41_command_encoder.md R172, U6). Safe: the spec
  refuses it. -/
  | serializeBeforeNew
  /-- Raised where a request frame stands where only one of the host's sixteen operations can
  (30_encoding.md R100, log 7). Safe: the spec has no such event. -/
  | notAnOperation
  /-- Raised where an operation stands where only a request frame can (log 7). Safe: the decoder
  yields frames only. -/
  | notARequest
  deriving DecidableEq, Repr

/-- The outcome of one instruction or one step. -/
abbrev Outcome := Host.Outcome State Fault Refusal

/-- The state after `RESET` and nothing else (10_state.md R37, 70_reset_and_hazards.md R272), under
`Cfg0` (log 1), with no operation issued and no output yet (log 15). -/
def State.reset : State where
  cfg := Cfg0
  rxState := .awaitStart0
  rxCnt := 0
  rx := []
  cmd := []
  cmdValid := false
  rpl := []
  rplEmpty := true
  host := []
  outputs := []

end Sys2Proof.Machine
end

