-- ==== Sys2Proof/Machine/Ops.lean ====
section
/-! DEFINITION. The named operations over buffers and state: reading and writing bytes by offset
(00_scope.md R12), emitting an output, the decoder's return to `AwaitStart0` (the nearest thing the
block has to taking an exception, 60_exceptions.md R249), filling and dropping the command and reply
buffers, and fetching the host's next operation. -/

namespace Sys2Proof.Machine

/-! ### Buffers -/

/-- `B[off]` (R12): the byte at an offset, none where it holds no value (10_state.md R27). -/
def bufRead : Buffer → Nat → Option Byte
  | [], _ => none
  | (a, v) :: cells, off => if a = off then some v else bufRead cells off

/-- `B[off] <- v` (R12), keeping the offsets rising. -/
def bufWrite : Buffer → Nat → Byte → Buffer
  | [], off, v => [(off, v)]
  | (a, w) :: cells, off, v =>
    if off < a then (off, v) :: (a, w) :: cells
    else if a = off then (off, v) :: cells
    else (a, w) :: bufWrite cells off v

/-- Bytes stored at rising offsets from `off` on. -/
def bufWriteAll : Buffer → Nat → List Byte → Buffer
  | b, _, [] => b
  | b, off, v :: vs => bufWriteAll (bufWrite b off v) (off + 1) vs

/-- `n` bytes from `off` on, none where one of them holds no value. -/
def bufReadAll : Buffer → Nat → Nat → Option (List Byte)
  | _, _, 0 => some []
  | b, off, n + 1 =>
    match bufRead b off with
    | none => none
    | some v =>
      match bufReadAll b (off + 1) n with
      | none => none
      | some vs => some (v :: vs)

/-- `MemWrite(B, off, n, v)` (R12): little-endian store of the low `8n` bits of `v`. -/
def memWrite (b : Buffer) (off n v : Nat) : Buffer := bufWriteAll b off (leBytes n v)

/-- `MemRead(B, off, n)` (R12): little-endian assembly of `n` bytes. -/
def memRead (b : Buffer) (off n : Nat) : Option Nat := (bufReadAll b off n).map leValue

/-- The canonical form: offsets strictly rising and below 258 (10_state.md R33). Every listed byte
holds a value and an unlisted one holds none, so no entry equals what an unlisted offset reads as. -/
def bufferWf (b : Buffer) : Bool :=
  decide ((b.map Prod.fst).Pairwise (· < ·)) && b.all fun cell => decide (cell.1 < frameMax)

/-- `Memory.wf`: the canonical form holds of all three buffers. -/
def Memory.wf (s : State) : Bool := bufferWf s.rx && bufferWf s.cmd && bufferWf s.rpl

/-- `Frame(B)` (R12) and `Serialize(B)` (41_command_encoder.md R170): the bytes at offsets 0 to
`B[2] + 2`, none where one of them holds no value. -/
def bufFrame (b : Buffer) : Option (List Byte) :=
  match bufRead b offLen with
  | none => none
  | some len => bufReadAll b 0 (len.toNat + overhead)

/-! ### Outputs -/

/-- Record the output of an operation (00_scope.md R8). -/
def emit (o : Output) (s : State) : State := { s with outputs := o :: s.outputs }

/-- An operation done: the next state with its output. -/
def done (o : Output) (s : State) : Outcome := .next (emit o s)

/-! ### The receive buffer -/

/-- The decoder's `discard()` (40_frame_decoder.md R134): back to `AwaitStart0` with every byte of
`RX` holding no value. RX_CLEAR, and a framing error (60_exceptions.md R249), do this and nothing
else: no cause is latched, no handler runs, and CE and RD are not touched. There is no return from it
to model: the decoder is then in its normal initial state (R250). -/
def discard (s : State) : State := { s with rxState := .awaitStart0, rxCnt := 0, rx := [] }

/-- Store one received byte at its wire offset and move to the next sequencing state. -/
def storeRx (off : Nat) (b : Byte) (next : RxState) (s : State) : State :=
  { s with rx := bufWrite s.rx off b, rxState := next }

/-- Set the payload counter. -/
def setCnt (n : Nat) (s : State) : State := { s with rxCnt := n }

/-! ### The command buffer -/

/-- Replace the command frame wholly (41_command_encoder.md R152): bytes beyond the new frame hold no
value again. -/
def loadCmd (bytes : List Byte) (s : State) : State :=
  { s with cmd := bufWriteAll [] 0 bytes, cmdValid := true }

/-- Store bytes in the command buffer from an offset on. -/
def storeCmd (off : Nat) (bytes : List Byte) (s : State) : State :=
  { s with cmd := bufWriteAll s.cmd off bytes }

/-- Store a payload from payload offset 0 and set `CMD[2]` to 6 plus its length
(41_command_encoder.md R155). -/
def storePayload (bytes : List Byte) (s : State) : State :=
  storeCmd offLen [lenByte bytes.length] (storeCmd offPld bytes s)

/-- A setter for opcode `op` (41_command_encoder.md R155): it applies only where `cmd_valid` is true
and `CMD[8]` is `op`, and is a silent no-op elsewhere. -/
def setter (op : Byte) (apply : Outcome) (s : State) : Outcome :=
  if s.cmdValid then
    match bufRead s.cmd offOpcode with
    | none => .fault (.noValue .cmd offOpcode)
    | some held => if held = op then apply else done .nothing s
  else done .nothing s

/-! ### The reply buffer -/

/-- The fields of the reply to a request: ids copied, source and destination exchanged (the address
bounce, 42_reply_demux.md R193). -/
def bounce (q : Request) (payload : List Byte) : Request :=
  { hwid := q.hwid, msgid := q.msgid, src := q.dst, dst := q.src, payload := payload }

/-- `reply(op, P)` with its `commit()` (42_reply_demux.md R193, R194): write the reply frame, set the
guard, report `Replied`. -/
def reply (op : Byte) (payload : List Byte) (q : Request) (s : State) : Outcome :=
  done (.reply .replied)
    { s with rpl := bufWriteAll s.rpl 0 (frameOf s.cfg op (bounce q payload)), rplEmpty := false }

/-- Common-nack with no payload, the template T2 (42_reply_demux.md R212). -/
def replyNack (q : Request) (s : State) : Outcome := reply s.cfg.opcCommonNack [] q s

/-- Common-ack with no payload, the template T1 (42_reply_demux.md R212). -/
def replyAck (q : Request) (s : State) : Outcome := reply s.cfg.opcCommonAck [] q s

/-- Bootloader-ack with one byte where `bootMode` is true, common-nack where it is false
(60_exceptions.md R253). -/
def replyInBootMode (reason : Byte) (q : Request) (d : DeviceState) (s : State) : Outcome :=
  if d.bootMode then reply s.cfg.opcBootloaderAck [reason] q s else replyNack q s

/-- The treatment of a request opcode outside the dispatch (42_reply_demux.md R211): the policy of the
configuration. -/
def unrecognizedReply (q : Request) (s : State) : Outcome :=
  match s.cfg.unrecognizedPolicy with
  | .noReply => done (.reply .noReply) s
  | .nack => replyNack q s

/-- No reply pending and no byte of `RPL` holding a value (42_reply_demux.md R217). -/
def dropReply (s : State) : State := { s with rpl := [], rplEmpty := true }

/-- The precondition of `REPLY_GEN` (42_reply_demux.md R192): a request is complete and no reply is
pending. Where it is false nothing changes and the outcome is `NotInvoked`. -/
def invoke (answer : Outcome) (s : State) : Outcome :=
  if s.rxState = .complete ∧ s.rplEmpty = true then answer else done (.reply .notInvoked) s

/-! ### Fetch -/

/-- The host's next operation, with the state in which it is performed; none where the host issues no
more (00_scope.md R9, log 4). -/
def fetch (s : State) : Option (Instr × State) :=
  match s.host with
  | [] => none
  | i :: rest => some (i, { s with host := rest })

/-- The state in which the host is about to ask for a reply to a completed frame spelled by `bytes`:
`RX` holds it, the decoder is `Complete`, no reply is pending, and the next operation is `REPLY_GEN`
with device inputs 0 (log 14). -/
def presentRequest (bytes : List Byte) (s : State) : State :=
  { s with
    rxState := .complete
    rxCnt := bytes.length - (hdrCounted + overhead)
    rx := bufWriteAll [] 0 bytes
    rpl := []
    rplEmpty := true
    host := .replyGen DeviceState.zero :: s.host }

end Sys2Proof.Machine
end

