-- ==== Sys2Proof/Machine/Operands.lean ====
section
/-! DEFINITION. The header of a buffer seen as registers (10_state.md R24, R25): views of the bytes, no
storage of their own; none where a byte they need holds no value. The opcode-to-payload-shape mapper
of the encoder (41_command_encoder.md R151). -/

namespace Sys2Proof.Machine

/-- `B.start_a`. -/
def viewStartA (b : Buffer) : Option Byte := bufRead b offStartA
/-- `B.start_b`. -/
def viewStartB (b : Buffer) : Option Byte := bufRead b offStartB
/-- `B.len`. -/
def viewLen (b : Buffer) : Option Byte := bufRead b offLen
/-- `B.hwid`, `B[3] + 256 * B[4]` (30_encoding.md R84). -/
def viewHwid (b : Buffer) : Option U16 := (memRead b offHwid 2).map (BitVec.ofNat 16)
/-- `B.msgid`, `B[5] + 256 * B[6]` (30_encoding.md R85). -/
def viewMsgid (b : Buffer) : Option U16 := (memRead b offMsgid 2).map (BitVec.ofNat 16)
/-- `B.addr`. -/
def viewAddr (b : Buffer) : Option Byte := bufRead b offAddr
/-- `B.src`, the high nibble of the addressing byte (30_encoding.md R86). -/
def viewSrc (b : Buffer) : Option U4 := (bufRead b offAddr).map hi4
/-- `B.dst`, the low nibble of the addressing byte (30_encoding.md R86). -/
def viewDst (b : Buffer) : Option U4 := (bufRead b offAddr).map lo4
/-- `B.opcode` (30_encoding.md R87). -/
def viewOpcode (b : Buffer) : Option Byte := bufRead b offOpcode
/-- `B.pldlen`, `B[2] - 6`, also `rx_pldlen` (10_state.md R23). R24 gives it only where `B[2] >= 6`;
DESIGN CHOICE (log 18): below 6 the subtraction is truncated and the view is 0. Safe: no state with the
invariant reads it there. -/
def viewPldLen (b : Buffer) : Option Nat := (bufRead b offLen).map pldLen
/-- `B.pld(i)`, payload byte `i` at offset `9 + i` (30_encoding.md R88). R24 gives it only for
`i < B.pldlen`; DESIGN CHOICE (log 18): beyond it the view is whatever byte `B[9 + i]` holds, a stale
one behind a shortened command frame included, or none. Safe: no operation reads the view. -/
def viewPld (b : Buffer) (i : Nat) : Option Byte := bufRead b (offPld + i)

/-- The seven classes of the encoder's table (41_command_encoder.md R151). -/
inductive PayloadClass where
  | simple
  | reboot
  | setTime
  | telemetry
  | writePage
  | ascii
  | data
  deriving DecidableEq, Repr

/-- `class(op)` (R151): every opcode outside the six others, named or not, is simple. DESIGN CHOICE
(log 19): under a configuration that gives two opcodes one value, for which 00_scope.md R7 states no
behaviour, the first match in this order is taken. -/
def classOf (c : Cfg) (op : Byte) : PayloadClass :=
  if op = c.opcReboot then .reboot
  else if op = c.opcSetTime then .setTime
  else if op = c.opcTelemetryReport then .telemetry
  else if op = c.opcBootloaderWritePage then .writePage
  else if op = c.opcCommonAscii then .ascii
  else if op = c.opcDataRecord then .data
  else .simple

/-- `default_len` (R151). -/
def defaultLen : PayloadClass → Nat
  | .simple => 0
  | .reboot => 0
  | .setTime => timeLen
  | .telemetry => telemLen
  | .writePage => 1
  | .ascii => 0
  | .data => 0

/-- The bytes of a data-record payload (41_command_encoder.md R161). -/
def dataPayload (msbFirst : Bool) (vals : List U16) : List Byte :=
  vals.flatMap (dataElement msbFirst)

end Sys2Proof.Machine
end

