-- ==== Sys2Proof/Machine/CommandEncoder.lean ====
section
/-! DEFINITION. The command encoder CE (41_command_encoder.md): `TX_NEW`, the six setters and
`TX_SERIALIZE`. -/

namespace Sys2Proof.Machine

/-- `TX_NEW` (R152): header fields, and a zero-filled payload of the class's default length. -/
def execTxNew (opcode : Byte) (hwid msgid : U16) (src dst : U4) (s : State) : Outcome :=
  done .nothing (loadCmd (frameOf s.cfg opcode
    { hwid := hwid, msgid := msgid, src := src, dst := dst
      payload := List.replicate (defaultLen (classOf s.cfg opcode)) 0#8 }) s)

/-- `TX_SET_DELAY` (R156): a 4-byte little-endian delay. -/
def execTxSetDelay (delay : U32) (s : State) : Outcome :=
  setter s.cfg.opcReboot (done .nothing (storePayload (leBytes delayLen delay.toNat) s)) s

/-- `TX_SET_TIME` (R157): seconds then nanoseconds, 4 bytes each, little-endian. -/
def execTxSetTime (sec nsec : U32) (s : State) : Outcome :=
  setter s.cfg.opcSetTime
    (done .nothing (storePayload (leBytes 4 sec.toNat ++ leBytes 4 nsec.toNat) s)) s

/-- `TX_SET_TELEM` (R158): a buffer of any length but 78 is ignored. -/
def execTxSetTelem (buf : List Byte) (s : State) : Outcome :=
  setter s.cfg.opcTelemetryReport
    (if buf.length = telemLen then done .nothing (storePayload buf s) else done .nothing s) s

/-- `TX_SET_PAGE` (R159): a body of any length but 128 is ignored, the page number written all the
same; `CMD[2]` is then left as it was. -/
def execTxSetPage (page : Byte) (body : List Byte) (s : State) : Outcome :=
  setter s.cfg.opcBootloaderWritePage
    (if body.length = pageLen then done .nothing (storePayload (page :: body) s)
      else done .nothing (storeCmd offPld [page] s)) s

/-- `TX_SET_ASCII` (R160): a string of more than 249 bytes is ignored whole. -/
def execTxSetAscii (str : List Byte) (s : State) : Outcome :=
  setter s.cfg.opcCommonAscii
    (if str.length ≤ pldMax then done .nothing (storePayload str s) else done .nothing s) s

/-- `TX_SET_DATA` (R161): more than 124 elements on a data-record frame are refused. -/
def execTxSetData (vals : List U16) (s : State) : Outcome :=
  setter s.cfg.opcDataRecord
    (if dataMax < vals.length then .refused .dataRecordTooLong
      else done .nothing (storePayload (dataPayload s.cfg.dataMsbFirst vals) s)) s

/-- `TX_SERIALIZE` (R172): the command frame; refused before any `TX_NEW`. -/
def execTxSerialize (s : State) : Outcome :=
  if s.cmdValid then
    match bufFrame s.cmd with
    | none => .fault (.notAFrame .cmd)
    | some bytes => done (.frame bytes) s
  else .refused .serializeBeforeNew

end Sys2Proof.Machine
end

