-- ==== Sys2Proof/Machine/Flags.lean ====
section
/-! DEFINITION. The flags (10_state.md R28 to R30) and the status triple (R31). The device flags
`bootMode`, `flashWriteOk` and `timeSet` are operands of `REPLY_GEN`, not flags of the block. -/

namespace Sys2Proof.Machine

/-- `rx_complete`, derived (R28). -/
def rxComplete (s : State) : Bool := decide (s.rxState = .complete)

/-- `rpl_pending`, the negation of the guard `rpl_empty` (40_frame_decoder.md R136). -/
def rplPending (s : State) : Bool := !s.rplEmpty

/-- The triple `STATUS` outputs (R31, 40_frame_decoder.md R136). -/
def statusOutput (s : State) : Output := .status (rxComplete s) (rplPending s) s.cmdValid

end Sys2Proof.Machine
end

