-- ==== Sys2Proof/Machine/FrameDecoder.lean ====
section
/-! DEFINITION. The frame decoder FD (40_frame_decoder.md): `RX_BYTE`, one definition for each state,
`RX_READ`, `RX_CLEAR`, `STATUS`; and `RESET` (70_reset_and_hazards.md). -/

namespace Sys2Proof.Machine

/-- R122: only the first start marker is accepted; any other byte is consumed and dropped. -/
def rxAwaitStart0 (b : Byte) (s : State) : State :=
  if b = s.cfg.startA then storeRx offStartA b .awaitStart1 s else s

/-- R123: a mismatching byte discards all progress and is not looked at again. -/
def rxAwaitStart1 (b : Byte) (s : State) : State :=
  if b = s.cfg.startB then storeRx offStartB b .awaitLength s else discard s

/-- R124: a length of 6 to 255 is recorded; a smaller one discards all progress. -/
def rxAwaitLength (b : Byte) (s : State) : State :=
  if lenMin ≤ b.toNat then setCnt 0 (storeRx offLen b .hwidLsb s) else discard s

/-- R130: straight to `Complete` where the payload is empty. The opcode is not examined. -/
def rxOpcode (b : Byte) (s : State) : Outcome :=
  match viewPldLen s.rx with
  | none => .fault (.noValue .rx offLen)
  | some n =>
    if 0 < n then done (.consumed true) (setCnt 0 (storeRx offOpcode b .payload s))
    else done (.consumed true) (storeRx offOpcode b .complete s)

/-- R131: payload bytes are stored verbatim until the declared length is reached. -/
def rxPayload (b : Byte) (s : State) : Outcome :=
  match viewPldLen s.rx with
  | none => .fault (.noValue .rx offLen)
  | some n =>
    if offPld + s.rxCnt < frameMax then
      done (.consumed true) (setCnt (s.rxCnt + 1)
        (storeRx (offPld + s.rxCnt) b (if s.rxCnt + 1 = n then .complete else .payload) s))
    else .fault (.noSuchOffset .rx (offPld + s.rxCnt))

/-- `RX_BYTE` (R121): exactly the rule of the current state. In `Complete` the byte is declined and
nothing changes (R132). -/
def execRxByte (b : Byte) (s : State) : Outcome :=
  match s.rxState with
  | .awaitStart0 => done (.consumed true) (rxAwaitStart0 b s)
  | .awaitStart1 => done (.consumed true) (rxAwaitStart1 b s)
  | .awaitLength => done (.consumed true) (rxAwaitLength b s)
  | .hwidLsb => done (.consumed true) (storeRx offHwid b .hwidMsb s)
  | .hwidMsb => done (.consumed true) (storeRx (offHwid + 1) b .msgIdLsb s)
  | .msgIdLsb => done (.consumed true) (storeRx offMsgid b .msgIdMsb s)
  | .msgIdMsb => done (.consumed true) (storeRx (offMsgid + 1) b .destId s)
  | .destId => done (.consumed true) (storeRx offAddr b .opcode s)
  | .opcode => rxOpcode b s
  | .payload => rxPayload b s
  | .complete => done (.consumed false) s

/-- `RX_READ` (R133): a copy of the completed frame; nothing before completion. -/
def execRxRead (s : State) : Outcome :=
  if s.rxState = .complete then
    match bufFrame s.rx with
    | none => .fault (.notAFrame .rx)
    | some bytes => done (.read (some bytes)) s
  else done (.read none) s

/-- `RX_CLEAR` (R134), legal in every state. -/
def execRxClear (s : State) : Outcome := done .nothing (discard s)

/-- `STATUS` (R136). -/
def execStatus (s : State) : Outcome := done (statusOutput s) s

/-- `RESET` (70_reset_and_hazards.md R270, R271). The configuration is not affected. -/
def execReset (s : State) : Outcome :=
  done .nothing { dropReply (discard s) with cmd := [], cmdValid := false }

end Sys2Proof.Machine
end

