-- ==== Sys2Proof/Machine/ReplyDemux.lean ====
section
/-! DEFINITION. The reply demultiplexer RD (42_reply_demux.md): what the block answers to each request
frame, `REPLY_GEN`, which runs the request in `RX`, `RPL_SERIALIZE` and `RPL_CLEAR`. -/

namespace Sys2Proof.Machine

/-! ### The request frames -/

/-- R196: a zero-filled telemetry body. -/
def execGetTelemetry (q : Request) (s : State) : Outcome :=
  invoke (reply s.cfg.opcTelemetryReport (List.replicate telemLen 0#8) q s) s

/-- R197: the time in a set-time frame, or common-nack where it is not set. -/
def execGetTime (q : Request) (d : DeviceState) (s : State) : Outcome :=
  invoke (if d.timeSet then
      reply s.cfg.opcSetTime (leBytes 4 d.nowSec.toNat ++ leBytes 4 d.nowNsec.toNat) q s
    else replyNack q s) s

/-- R198: no delay, or a 4-byte delay up to `MAX_DELAY`, is acknowledged; the comparison is unsigned;
any other payload length is refused. -/
def execReboot (q : Request) (s : State) : Outcome :=
  invoke (if q.payload.length = 0 then replyAck q s
    else if q.payload.length = delayLen then
      if leValue q.payload ≤ s.cfg.maxDelay.toNat then replyAck q s else replyNack q s
    else .refused .rebootPayloadLength) s

/-- R199. -/
def execSetTime (q : Request) (s : State) : Outcome := invoke (replyAck q s) s

/-- R200. -/
def execTelemetryReport (q : Request) (s : State) : Outcome := invoke (replyNack q s) s

/-- R201. -/
def execBootloaderAck (q : Request) (s : State) : Outcome := invoke (replyNack q s) s

/-- R202. -/
def execBootloaderErase (q : Request) (d : DeviceState) (s : State) : Outcome :=
  invoke (replyInBootMode s.cfg.reasonErased q d s) s

/-- R203. -/
def execBootloaderPing (q : Request) (d : DeviceState) (s : State) : Outcome :=
  invoke (replyInBootMode s.cfg.reasonPong q d s) s

/-- R204: `bootMode` before `flashWriteOk`; the page number is echoed; refused where there is none to
echo. -/
def execBootloaderWritePage (q : Request) (d : DeviceState) (s : State) : Outcome :=
  invoke (if d.bootMode then
      if d.flashWriteOk then
        match q.payload with
        | [] => .refused .writePageNoPageNumber
        | page :: _ => reply s.cfg.opcBootloaderAck [page] q s
      else reply s.cfg.opcBootloaderNack [] q s
    else replyNack q s) s

/-- R205. -/
def execBootloaderJump (q : Request) (d : DeviceState) (s : State) : Outcome :=
  invoke (replyInBootMode s.cfg.reasonJump q d s) s

/-- R206. -/
def execBootloaderNack (q : Request) (s : State) : Outcome := invoke (replyNack q s) s

/-- R207. -/
def execCommonAck (q : Request) (s : State) : Outcome := invoke (replyAck q s) s

/-- R208. -/
def execCommonAscii (q : Request) (s : State) : Outcome := invoke (replyNack q s) s

/-- R209. -/
def execCommonNack (q : Request) (s : State) : Outcome := invoke (replyNack q s) s

/-- R210: the source's dispatch has no row for it, so it is treated as unrecognized. -/
def execDataRecord (q : Request) (s : State) : Outcome := invoke (unrecognizedReply q s) s

/-- R211. -/
def execUnrecognized (q : Request) (s : State) : Outcome := invoke (unrecognizedReply q s) s

/-! ### The operations -/

/-- The dispatch (R195): the rule of the decoded request. An operation is no request; the decoder
yields none (log 7). -/
def answer (i : Instr) (s : State) : Outcome :=
  match i with
  | .bootloaderPing q d => execBootloaderPing q d s
  | .bootloaderAck q _ => execBootloaderAck q s
  | .bootloaderWritePage q d => execBootloaderWritePage q d s
  | .bootloaderJump q d => execBootloaderJump q d s
  | .bootloaderErase q d => execBootloaderErase q d s
  | .bootloaderNack q _ => execBootloaderNack q s
  | .commonAck q _ => execCommonAck q s
  | .commonAscii q _ => execCommonAscii q s
  | .reboot q _ => execReboot q s
  | .getTime q d => execGetTime q d s
  | .setTime q _ => execSetTime q s
  | .dataRecord q _ => execDataRecord q s
  | .getTelemetry q _ => execGetTelemetry q s
  | .telemetryReport q _ => execTelemetryReport q s
  | .commonNack q _ => execCommonNack q s
  | .unrecognized _ q _ => execUnrecognized q s
  | .reset | .status | .rxByte _ | .rxRead | .rxClear | .txNew _ _ _ _ _ | .txSetDelay _
  | .txSetTime _ _ | .txSetTelem _ | .txSetPage _ _ | .txSetAscii _ | .txSetData _
  | .txSerialize | .replyGen _ | .rplSerialize | .rplClear => .refused .notARequest

/-- The request in `RX`, decoded, with the device state presented; none where `RX` spells no frame. -/
def fetchRequest (d : DeviceState) (s : State) : Option Instr :=
  match bufFrame s.rx with
  | none => none
  | some bytes =>
    match decode s.cfg d bytes with
    | .error _ => none
    | .ok (i, _) => some i

/-- `REPLY_GEN` (R192 to R195): where a request is complete and no reply is pending, run the request
in `RX`; the decoder is left as it was. -/
def execReplyGen (d : DeviceState) (s : State) : Outcome :=
  invoke (match fetchRequest d s with
    | none => .fault (.notAFrame .rx)
    | some i => answer i s) s

/-- `RPL_SERIALIZE` (R216): the pending reply, or nothing; the guard is not lowered. -/
def execRplSerialize (s : State) : Outcome :=
  if s.rplEmpty then done (.frame []) s
  else
    match bufFrame s.rpl with
    | none => .fault (.notAFrame .rpl)
    | some bytes => done (.frame bytes) s

/-- `RPL_CLEAR` (R217), legal at any time. -/
def execRplClear (s : State) : Outcome := done .nothing (dropReply s)

end Sys2Proof.Machine
end

