-- ==== Sys2Proof/Machine/Dispatch.lean ====
section
/-! DEFINITION. One arm for each row of the opcode table. -/

namespace Sys2Proof.Machine

def exec (i : Instr) (s : State) : Host.Outcome State Fault Refusal :=
  match i with
  -- the request frames: what RD answers
  | .bootloaderPing q d => Sys2Proof.Machine.execBootloaderPing q d s
  | .bootloaderAck q _ => Sys2Proof.Machine.execBootloaderAck q s
  | .bootloaderWritePage q d => Sys2Proof.Machine.execBootloaderWritePage q d s
  | .bootloaderJump q d => Sys2Proof.Machine.execBootloaderJump q d s
  | .bootloaderErase q d => Sys2Proof.Machine.execBootloaderErase q d s
  | .bootloaderNack q _ => Sys2Proof.Machine.execBootloaderNack q s
  | .commonAck q _ => Sys2Proof.Machine.execCommonAck q s
  | .commonAscii q _ => Sys2Proof.Machine.execCommonAscii q s
  | .reboot q _ => Sys2Proof.Machine.execReboot q s
  | .getTime q d => Sys2Proof.Machine.execGetTime q d s
  | .setTime q _ => Sys2Proof.Machine.execSetTime q s
  | .dataRecord q _ => Sys2Proof.Machine.execDataRecord q s
  | .getTelemetry q _ => Sys2Proof.Machine.execGetTelemetry q s
  | .telemetryReport q _ => Sys2Proof.Machine.execTelemetryReport q s
  | .commonNack q _ => Sys2Proof.Machine.execCommonNack q s
  | .unrecognized _ q _ => Sys2Proof.Machine.execUnrecognized q s
  -- the host's operations
  | .reset => Sys2Proof.Machine.execReset s
  | .status => Sys2Proof.Machine.execStatus s
  | .rxByte b => Sys2Proof.Machine.execRxByte b s
  | .rxRead => Sys2Proof.Machine.execRxRead s
  | .rxClear => Sys2Proof.Machine.execRxClear s
  | .txNew opcode hwid msgid src dst => Sys2Proof.Machine.execTxNew opcode hwid msgid src dst s
  | .txSetDelay delay => Sys2Proof.Machine.execTxSetDelay delay s
  | .txSetTime sec nsec => Sys2Proof.Machine.execTxSetTime sec nsec s
  | .txSetTelem buf => Sys2Proof.Machine.execTxSetTelem buf s
  | .txSetPage page body => Sys2Proof.Machine.execTxSetPage page body s
  | .txSetAscii str => Sys2Proof.Machine.execTxSetAscii str s
  | .txSetData vals => Sys2Proof.Machine.execTxSetData vals s
  | .txSerialize => Sys2Proof.Machine.execTxSerialize s
  | .replyGen d => Sys2Proof.Machine.execReplyGen d s
  | .rplSerialize => Sys2Proof.Machine.execRplSerialize s
  | .rplClear => Sys2Proof.Machine.execRplClear s

end Sys2Proof.Machine
end

