-- ==== Sys2Proof/Machine/Step.lean ====
section
/-! DEFINITION. One step performs the host's next operation (00_scope.md R8, R9); where the host issues
none, nothing changes. -/

namespace Sys2Proof.Machine

/-- One step. A request frame is no operation of the host (log 7): it runs only through `REPLY_GEN`. -/
def step (s : State) : Host.Outcome State Fault Refusal :=
  match fetch s with
  | none => .next s
  | some (i, s') => if i.isOperation then exec i s' else .refused .notAnOperation

/-- The table's word as the request in `RX`, about to be answered (log 14). -/
def State.withFetchWord (s : State) (nbits w : Nat) : State :=
  presentRequest (tableFrame s.cfg nbits w) s

end Sys2Proof.Machine
end

