-- ==== Sys2Proof/Safety.lean ====
section
/-! DEFINITION. The terms claims use: what an operation leaves alone, what a buffer holds, the
invariant of 10_state.md R36 (with R20, R23, R27 and 41_command_encoder.md R162), and what answering a
request leaves. -/

namespace Sys2Proof.Machine

/-! ### What an operation leaves alone -/

/-- The decoder's state is unchanged: every byte of `RX`, `rx_state` and `rx_cnt`. -/
def SameFd (s t : State) : Prop := t.rx = s.rx ∧ t.rxState = s.rxState ∧ t.rxCnt = s.rxCnt

/-- The encoder's state is unchanged: every byte of `CMD` and `cmd_valid`. -/
def SameCe (s t : State) : Prop := t.cmd = s.cmd ∧ t.cmdValid = s.cmdValid

/-- The reply demultiplexer's state is unchanged: every byte of `RPL` and `rpl_empty`. -/
def SameRd (s t : State) : Prop := t.rpl = s.rpl ∧ t.rplEmpty = s.rplEmpty

/-- The configuration and the operations yet to be issued are unchanged, and `o` is the one output. -/
def Emits (o : Output) (s t : State) : Prop :=
  t.cfg = s.cfg ∧ t.host = s.host ∧ t.outputs = o :: s.outputs

/-! ### What a buffer holds -/

/-- The bytes stand in the buffer from an offset on. -/
def Stands (b : Buffer) (off : Nat) (bytes : List Byte) : Prop :=
  ∀ k, k < bytes.length → bufRead b (off + k) = bytes[k]?

/-- Every byte outside `off` to `off + n - 1` reads as before. -/
def SameOutside (off n : Nat) (b b' : Buffer) : Prop :=
  ∀ a, a < off ∨ off + n ≤ a → bufRead b' a = bufRead b a

/-- Exactly the offsets below `n` hold a value, in canonical form. -/
abbrev HoldsPrefix (b : Buffer) (n : Nat) : Prop := b.map Prod.fst = List.range n

/-- `off` holds the byte that stands at the head of a frame (10_state.md R36). -/
def Marked (c : Cfg) (b : Buffer) : Prop :=
  bufRead b offStartA = some c.startA ∧ bufRead b offStartB = some c.startB

/-! ### The invariant -/

/-- The place of a sequencing state in the order of 10_state.md R21. -/
def rxOrder : RxState → Nat
  | .awaitStart0 => 0
  | .awaitStart1 => 1
  | .awaitLength => 2
  | .hwidLsb => 3
  | .hwidMsb => 4
  | .msgIdLsb => 5
  | .msgIdMsb => 6
  | .destId => 7
  | .opcode => 8
  | .payload => 9
  | .complete => 10

/-- The number of bytes the current reception has written (R36a). -/
def rxPrefix (s : State) : Nat :=
  match s.rxState with
  | .payload => offPld + s.rxCnt
  | .complete =>
    match bufRead s.rx offLen with
    | none => 0
    | some len => len.toNat + overhead
  | r => rxOrder r

/-- R36 (a) to (d) and R23. -/
structure FdInv (s : State) : Prop where
  held : HoldsPrefix s.rx (rxPrefix s)
  startA : s.rxState ≠ .awaitStart0 → bufRead s.rx offStartA = some s.cfg.startA
  startB : 2 ≤ rxOrder s.rxState → bufRead s.rx offStartB = some s.cfg.startB
  len : 3 ≤ rxOrder s.rxState → ∃ len, bufRead s.rx offLen = some len ∧ lenMin ≤ len.toNat
  idle : s.rxState ≠ .payload → s.rxState ≠ .complete → s.rxCnt = 0
  payload : s.rxState = .payload →
    ∃ len, bufRead s.rx offLen = some len ∧ s.rxCnt < pldLen len
  complete : s.rxState = .complete →
    ∃ len, bufRead s.rx offLen = some len ∧ s.rxCnt = pldLen len

/-- The length fields a command frame of each class may have (41_command_encoder.md R162). -/
def cmdLenLegal : PayloadClass → Nat → Prop
  | .simple, l => l = 6
  | .reboot, l => l = 6 ∨ l = 10
  | .setTime, l => l = 14
  | .telemetry, l => l = 84
  | .writePage, l => l = 7 ∨ l = 135
  | .ascii, l => 6 ≤ l ∧ l ≤ 255
  | .data, l => 6 ≤ l ∧ l ≤ 254 ∧ l % 2 = 0

/-- R36 (e), R27, R162: a valid command frame is whole and of a legal length; without one, no byte of
`CMD` holds a value. -/
structure CeInv (s : State) : Prop where
  invalid : s.cmdValid = false → s.cmd = []
  marked : s.cmdValid = true → Marked s.cfg s.cmd
  whole : s.cmdValid = true → ∃ n len op, HoldsPrefix s.cmd n ∧ n ≤ frameMax ∧
    bufRead s.cmd offLen = some len ∧ bufRead s.cmd offOpcode = some op ∧
    len.toNat + overhead ≤ n ∧ cmdLenLegal (classOf s.cfg op) len.toNat

/-- R36 (f), R27: a pending reply is whole and has one of four lengths; with none pending no byte of
`RPL` holds a value. -/
structure RdInv (s : State) : Prop where
  empty : s.rplEmpty = true → s.rpl = []
  marked : s.rplEmpty = false → Marked s.cfg s.rpl
  whole : s.rplEmpty = false → ∃ len, bufRead s.rpl offLen = some len ∧
    HoldsPrefix s.rpl (len.toNat + overhead) ∧ len.toNat ∈ [6, 7, 14, 84]

/-- The invariant of the block (10_state.md R36), under a well-formed configuration (00_scope.md R7). -/
structure Inv (s : State) : Prop where
  cfg : s.cfg.WellFormed
  fd : FdInv s
  ce : CeInv s
  rd : RdInv s

/-! ### Answering a request -/

/-- `RX` holds a completed request with opcode `op` and fields `q`. -/
def HoldsRequest (s : State) (op : Byte) (q : Request) : Prop :=
  s.rxState = .complete ∧ q.payload.length ≤ pldMax ∧ Stands s.rx 0 (frameOf s.cfg op q)

/-- What `reply(op, P)` and its `commit()` leave (42_reply_demux.md R193, R194), for a request with
fields `q`: the header at its offsets, ids verbatim, nibbles exchanged, the payload, and nothing else
changed. -/
structure Replied (op : Byte) (payload : List Byte) (q : Request) (s t : State) : Prop where
  marked : Marked s.cfg t.rpl
  len : bufRead t.rpl offLen = some (BitVec.ofNat 8 (6 + payload.length))
  hwidLow : bufRead t.rpl 3 = some (q.hwid.extractLsb' 0 8)
  hwidHigh : bufRead t.rpl 4 = some (q.hwid.extractLsb' 8 8)
  msgidLow : bufRead t.rpl 5 = some (q.msgid.extractLsb' 0 8)
  msgidHigh : bufRead t.rpl 6 = some (q.msgid.extractLsb' 8 8)
  addr : bufRead t.rpl offAddr = some (swap4 (packAddr q.src q.dst))
  opcode : bufRead t.rpl offOpcode = some op
  body : Stands t.rpl offPld payload
  outside : SameOutside 0 (offPld + payload.length) s.rpl t.rpl
  pending : t.rplEmpty = false
  decoder : SameFd s t
  encoder : SameCe s t
  output : Emits (.reply .replied) s t

/-- The request instruction `i`, run by itself and run by `REPLY_GEN` on the request in `RX`, answers
with `reply(op, P)`. -/
def Answers (i : Instr) (d : DeviceState) (op : Byte) (payload : List Byte) (q : Request)
    (s : State) : Prop :=
  ∃ t, exec i s = .next t ∧ exec (.replyGen d) s = .next t ∧ Replied op payload q s t

/-! ### Setting a payload -/

/-- `CMD` holds a valid command frame with opcode `op`: the setter of that opcode's class applies
(41_command_encoder.md R155). -/
def HoldsCommand (s : State) (op : Byte) : Prop :=
  s.cmdValid = true ∧ bufRead s.cmd offOpcode = some op

/-- `CMD` holds no valid command frame, or one with another opcode: the setter does not apply. -/
def HoldsOtherCommand (s : State) (op : Byte) : Prop :=
  s.cmdValid = false ∨ ∃ held, bufRead s.cmd offOpcode = some held ∧ held ≠ op

/-- The operation completes and changes nothing of the block. -/
def Ignored (i : Instr) (s : State) : Prop :=
  ∃ t, exec i s = .next t ∧ SameFd s t ∧ SameCe s t ∧ SameRd s t ∧ Emits .nothing s t

/-- The operation completes, the payload `bytes` stands from payload offset 0, the length field is
`len`, and every other byte of `CMD` and the rest of the block are unchanged. -/
def SetsPayload (i : Instr) (bytes : List Byte) (len : Byte) (s : State) : Prop :=
  ∃ t, exec i s = .next t ∧ Stands t.cmd offPld bytes ∧ bufRead t.cmd offLen = some len ∧
    (∀ a, a ≠ offLen → a < offPld ∨ offPld + bytes.length ≤ a →
      bufRead t.cmd a = bufRead s.cmd a) ∧
    t.cmdValid = s.cmdValid ∧ SameFd s t ∧ SameRd s t ∧ Emits .nothing s t

/-- A 32-bit value in four bytes, least significant first (20_memory.md R50). -/
def le32 (v : U32) : List Byte :=
  [v.extractLsb' 0 8, v.extractLsb' 8 8, v.extractLsb' 16 8, v.extractLsb' 24 8]

/-! ### Whole frames in a buffer -/

/-- The bytes are the frame in the buffer, `B[0]` to `B[B[2] + 2]` (00_scope.md R12). -/
def FrameIn (b : Buffer) (bytes : List Byte) : Prop :=
  Stands b 0 bytes ∧ ∃ len, bufRead b offLen = some len ∧ bytes.length = len.toNat + overhead

end Sys2Proof.Machine
end

