-- ==== Sys2Proof/Certificates/Slice0/Obligations.lean ====
section
/-! DEFINITION. The statements for the provers, each about the machine, none about a program. A rule
number in a docstring is a rule of spec/; `D<n>` is a decision of spec/92_eei_decisions.md, which the
source does not settle (log 17). `outputs` and `host` are the model's own fields (logs 4, 5). -/

open Sys2Proof Sys2Proof.Machine

/-! ### Encoding -/

/-- Decoding the bytes that encode a well-formed request frame, whatever follows them, gives the frame
back with every field, and leaves what follows. -/
def Obligations.DecodeOfEncodeGivesTheRequestBack : Prop :=
  ∀ (c : Cfg) (i : Instr) (op : Byte) (q : Request) (d : DeviceState) (bytes tail : List Byte),
    c.WellFormed → i.wellFormed c = true → i.request c = some (op, q, d) →
    encode c i = some bytes → decode c d (bytes ++ tail) = .ok (i, tail)

/-- Whatever the decoder accepts is the encoding of the well-formed request frame it answers, followed
by what it leaves: no bit of a frame is dropped and no two byte strings mean one frame. -/
def Obligations.EncodeOfDecodeGivesTheBytesBack : Prop :=
  ∀ (c : Cfg) (d : DeviceState) (bytes rest : List Byte) (i : Instr),
    decode c d bytes = .ok (i, rest) →
    i.wellFormed c = true ∧ i.isOperation = false ∧
      ∃ frame, encode c i = some frame ∧ bytes = frame ++ rest

/-- R81: total length `L + 3`, payload length `L - 6`, `L` in 6 to 255, and a lesser `L` yields no
frame. -/
def Obligations.FrameLengthLaws : Prop :=
  ∀ (c : Cfg) (d : DeviceState) (a b len : Byte) (more : List Byte),
    (len.toNat < 6 → ∃ e, decode c d (a :: b :: len :: more) = .error e) ∧
    ∀ (i : Instr) (rest : List Byte), decode c d (a :: b :: len :: more) = .ok (i, rest) →
      6 ≤ len.toNat ∧ len.toNat ≤ 255 ∧
      (a :: b :: len :: more).length = len.toNat + 3 + rest.length ∧
      ∃ op q, i.request c = some (op, q, d) ∧ q.payload.length = len.toNat - 6

/-- Words of the opcode table, each the opcode byte its row gives, decode to the row's instruction
(a few rows; the values other than 0x00, 0x01 and 0xff are `Cfg0` defaults, log 2). -/
def Obligations.TableWordsDecodeToTheirRows : Prop :=
  let q : Request := { hwid := 0, msgid := 0, src := 0, dst := 0, payload := [] }
  let d := DeviceState.zero
  decodeTableWord 8 0x00 = some (.bootloaderPing q d) ∧
  decodeTableWord 8 0x01 = some (.bootloaderAck q d) ∧
  decodeTableWord 8 0xff = some (.commonNack q d) ∧
  decodeTableWord 8 0x12 = some (.reboot q d) ∧
  decodeTableWord 8 0x17 = some (.getTelemetry q d)

/-- The nibbles of an addressing byte: packed as `16 * src + dst`, unpacked again, exchanged by the
address bounce, which is its own inverse (R86, R193). -/
def Obligations.AddressBounceExchangesTheNibbles : Prop :=
  ∀ (src dst : U4) (a : Byte),
    (packAddr src dst).toNat = 16 * src.toNat + dst.toNat ∧
    hi4 (packAddr src dst) = src ∧ lo4 (packAddr src dst) = dst ∧
    swap4 (packAddr src dst) = packAddr dst src ∧ swap4 (swap4 a) = a

/-- `MemRead` after `MemWrite` (R12, R50): the low `8n` bits come back, least significant byte at the
lower offset, and every byte outside the `n` stored reads as before. -/
def Obligations.LittleEndianStoreReadsBack : Prop :=
  ∀ (b : Buffer) (off n v : Nat),
    memRead (memWrite b off n v) off n = some (v % 256 ^ n) ∧
    SameOutside off n b (memWrite b off n v) ∧
    ∀ k, k < n → bufRead (memWrite b off n v) (off + k) = some (BitVec.ofNat 8 (v / 256 ^ k))

/-! ### The step -/

/-- A step performs the host's next operation, that operation removed from those yet to be issued. -/
def Obligations.StepPerformsTheNextOperation : Prop :=
  ∀ (s : State) (i : Instr) (rest : List Instr),
    s.host = i :: rest → i.isOperation = true →
    step s = exec i { s with host := rest }

/-- Where the bytes in `RX` decode to a request, no reply is pending and the host asks for a reply, the
step runs the decoded request instruction. -/
def Obligations.StepRunsTheDecodedRequest : Prop :=
  ∀ (s : State) (d : DeviceState) (rest : List Instr) (bytes tail : List Byte) (i : Instr),
    s.host = .replyGen d :: rest → s.rxState = .complete → s.rplEmpty = true →
    FrameIn s.rx bytes → decode s.cfg d bytes = .ok (i, tail) →
    step s = exec i { s with host := rest }

/-- With no operation issued nothing changes (R9; the model's choice of what a step is then, log 4). -/
def Obligations.StepWithoutOperationChangesNothing : Prop :=
  ∀ s : State, s.host = [] → step s = .next s

/-! ### Reset, clear and status -/

/-- RESET (R270; D22): the reset values, from any state; the configuration is not affected. -/
def Obligations.ResetLeavesTheResetValues : Prop :=
  ∀ s : State, ∃ t, exec .reset s = .next t ∧
    t.rxState = .awaitStart0 ∧ t.rxCnt = 0 ∧ t.cmdValid = false ∧ t.rplEmpty = true ∧
    (∀ a, bufRead t.rx a = none ∧ bufRead t.cmd a = none ∧ bufRead t.rpl a = none) ∧
    Emits .nothing s t

/-- STATUS (R136; D29): the triple; nothing changes. -/
def Obligations.StatusReportsTheThreeFlags : Prop :=
  ∀ s : State, ∃ t, exec .status s = .next t ∧ SameFd s t ∧ SameCe s t ∧ SameRd s t ∧
    Emits (.status (decide (s.rxState = .complete)) (!s.rplEmpty) s.cmdValid) s t

/-- RX_CLEAR (R134, R38; D8): in every state the decoder returns to `AwaitStart0` and no byte of `RX`
holds a value; CE and RD are unchanged. -/
def Obligations.RxClearDiscardsTheReception : Prop :=
  ∀ s : State, ∃ t, exec .rxClear s = .next t ∧
    t.rxState = .awaitStart0 ∧ t.rxCnt = 0 ∧ (∀ a, bufRead t.rx a = none) ∧
    SameCe s t ∧ SameRd s t ∧ Emits .nothing s t

/-! ### The frame decoder -/

/-- R122 (D6): in `AwaitStart0` only `START_A` is stored; any other byte is consumed and leaves no
trace. -/
def Obligations.AwaitStart0AcceptsOnlyTheFirstMarker : Prop :=
  ∀ (s : State) (b : Byte), s.rxState = .awaitStart0 →
    ∃ t, exec (.rxByte b) s = .next t ∧ t.rxCnt = s.rxCnt ∧
      (b = s.cfg.startA → t.rxState = .awaitStart1 ∧ bufRead t.rx 0 = some b ∧
        SameOutside 0 1 s.rx t.rx) ∧
      (b ≠ s.cfg.startA → SameFd s t) ∧
      SameCe s t ∧ SameRd s t ∧ Emits (.consumed true) s t

/-- R123 (D5): in `AwaitStart1` a byte other than `START_B` discards all progress and is not looked at
again, even where it is `START_A`. -/
def Obligations.AwaitStart1AdvancesOrResynchronises : Prop :=
  ∀ (s : State) (b : Byte), s.rxState = .awaitStart1 →
    ∃ t, exec (.rxByte b) s = .next t ∧
      (b = s.cfg.startB → t.rxState = .awaitLength ∧ bufRead t.rx 1 = some b ∧
        SameOutside 1 1 s.rx t.rx ∧ t.rxCnt = s.rxCnt) ∧
      (b ≠ s.cfg.startB → t.rxState = .awaitStart0 ∧ t.rxCnt = 0 ∧ ∀ a, bufRead t.rx a = none) ∧
      SameCe s t ∧ SameRd s t ∧ Emits (.consumed true) s t

/-- R124 (D5): a length byte of 6 to 255 is recorded; a lesser one discards all progress. -/
def Obligations.AwaitLengthAcceptsSixAndAbove : Prop :=
  ∀ (s : State) (b : Byte), s.rxState = .awaitLength →
    ∃ t, exec (.rxByte b) s = .next t ∧ t.rxCnt = 0 ∧
      (6 ≤ b.toNat → t.rxState = .hwidLsb ∧ bufRead t.rx 2 = some b ∧
        viewPldLen t.rx = some (b.toNat - 6) ∧ SameOutside 2 1 s.rx t.rx) ∧
      (b.toNat < 6 → t.rxState = .awaitStart0 ∧ ∀ a, bufRead t.rx a = none) ∧
      SameCe s t ∧ SameRd s t ∧ Emits (.consumed true) s t

/-- R125 to R129: in the five header states the byte is stored verbatim at its offset and the decoder
advances unconditionally; the ids and the two nibbles are then assembled. -/
def Obligations.HeaderBytesAreStoredVerbatim : Prop :=
  ∀ (s : State) (b : Byte),
    let stores := fun (off : Nat) (next : RxState) (t : State) =>
      exec (.rxByte b) s = .next t ∧ bufRead t.rx off = some b ∧ SameOutside off 1 s.rx t.rx ∧
        t.rxState = next ∧ t.rxCnt = s.rxCnt ∧ SameCe s t ∧ SameRd s t ∧ Emits (.consumed true) s t
    (s.rxState = .hwidLsb → ∃ t, stores 3 .hwidMsb t) ∧
    (s.rxState = .hwidMsb → ∃ t, stores 4 .msgIdLsb t ∧ ∀ lo, bufRead s.rx 3 = some lo →
      viewHwid t.rx = some (BitVec.ofNat 16 (lo.toNat + 256 * b.toNat))) ∧
    (s.rxState = .msgIdLsb → ∃ t, stores 5 .msgIdMsb t) ∧
    (s.rxState = .msgIdMsb → ∃ t, stores 6 .destId t ∧ ∀ lo, bufRead s.rx 5 = some lo →
      viewMsgid t.rx = some (BitVec.ofNat 16 (lo.toNat + 256 * b.toNat))) ∧
    (s.rxState = .destId → ∃ t, stores 7 .opcode t ∧
      viewSrc t.rx = some (b.extractLsb' 4 4) ∧ viewDst t.rx = some (b.extractLsb' 0 4))

/-- R130: the opcode byte is stored whatever it is; the next state is `Payload`, or `Complete` where
the declared payload is empty. -/
def Obligations.OpcodeByteSkipsAnEmptyPayload : Prop :=
  ∀ (s : State) (b len : Byte), s.rxState = .opcode → bufRead s.rx 2 = some len → 6 ≤ len.toNat →
    ∃ t, exec (.rxByte b) s = .next t ∧ bufRead t.rx 8 = some b ∧ SameOutside 8 1 s.rx t.rx ∧
      (6 < len.toNat → t.rxState = .payload ∧ t.rxCnt = 0) ∧
      (len.toNat = 6 → t.rxState = .complete ∧ t.rxCnt = s.rxCnt) ∧
      SameCe s t ∧ SameRd s t ∧ Emits (.consumed true) s t

/-- R131: a payload byte is stored at `9 + rx_cnt`, the counter rises by one, and the frame is complete
when the counter reaches the declared payload length. -/
def Obligations.PayloadBytesFillToTheDeclaredLength : Prop :=
  ∀ (s : State) (b len : Byte), s.rxState = .payload → bufRead s.rx 2 = some len →
    s.rxCnt < len.toNat - 6 →
    ∃ t, exec (.rxByte b) s = .next t ∧ bufRead t.rx (9 + s.rxCnt) = some b ∧
      9 + s.rxCnt ≤ 257 ∧ SameOutside (9 + s.rxCnt) 1 s.rx t.rx ∧ t.rxCnt = s.rxCnt + 1 ∧
      (s.rxCnt + 1 = len.toNat - 6 → t.rxState = .complete) ∧
      (s.rxCnt + 1 ≠ len.toNat - 6 → t.rxState = .payload) ∧
      SameCe s t ∧ SameRd s t ∧ Emits (.consumed true) s t

/-- R132 (D7): in `Complete` a byte is declined and nothing changes. -/
def Obligations.CompleteDeclinesFurtherBytes : Prop :=
  ∀ (s : State) (b : Byte), s.rxState = .complete →
    ∃ t, exec (.rxByte b) s = .next t ∧ SameFd s t ∧ SameCe s t ∧ SameRd s t ∧
      Emits (.consumed false) s t

/-- R133 (D31): RX_READ outputs the completed frame, nothing before completion; nothing changes. -/
def Obligations.RxReadReturnsTheCompletedFrame : Prop :=
  ∀ s : State,
    (∀ bytes, s.rxState = .complete → FrameIn s.rx bytes →
      ∃ t, exec .rxRead s = .next t ∧ SameFd s t ∧ SameCe s t ∧ SameRd s t ∧
        Emits (.read (some bytes)) s t) ∧
    (s.rxState ≠ .complete →
      ∃ t, exec .rxRead s = .next t ∧ SameFd s t ∧ SameCe s t ∧ SameRd s t ∧
        Emits (.read none) s t)

/-- R135: fed to a decoder in `AwaitStart0`, `START_A START_B L x1 ... xL` with `6 <= L <= 255` and any
bytes `x1 ... xL` drives it to `Complete` at the last byte and not before; every byte is consumed, and
the frame then in `RX` is the bytes fed. -/
def Obligations.EveryFrameCompletesAtItsLastByte : Prop :=
  ∀ (s : State) (len : Byte) (xs : List Byte) (rest : List Instr),
    6 ≤ len.toNat → xs.length = len.toNat → s.rxState = .awaitStart0 →
    s.host = (s.cfg.startA :: s.cfg.startB :: len :: xs).map Instr.rxByte ++ rest →
    (∀ k, k < len.toNat + 3 → ∃ t : State, Sys2Proof.core.run k s = .next t ∧
      t.rxState ≠ .complete ∧ t.outputs = List.replicate k (.consumed true) ++ s.outputs) ∧
    ∃ t : State, Sys2Proof.core.run (len.toNat + 3) s = .next t ∧ t.rxState = .complete ∧
      t.outputs = List.replicate (len.toNat + 3) (.consumed true) ++ s.outputs ∧
      FrameIn t.rx (s.cfg.startA :: s.cfg.startB :: len :: xs) ∧
      t.cfg = s.cfg ∧ t.host = rest ∧ SameCe s t ∧ SameRd s t

/-- The noise property in the form 90_conflicts.md C3 gives it: bytes other than `START_A`, fed to a
decoder in `AwaitStart0`, leave no trace. -/
def Obligations.NoiseWithoutTheFirstMarkerLeavesNoTrace : Prop :=
  ∀ (s : State) (noise : List Byte) (rest : List Instr),
    s.rxState = .awaitStart0 → (∀ b ∈ noise, b ≠ s.cfg.startA) →
    s.host = noise.map Instr.rxByte ++ rest →
    ∃ t : State, Sys2Proof.core.run noise.length s = .next t ∧
      SameFd s t ∧ SameCe s t ∧ SameRd s t ∧ t.cfg = s.cfg ∧ t.host = rest ∧
      t.outputs = List.replicate noise.length (.consumed true) ++ s.outputs

/-! ### The command encoder -/

/-- R152 with the table of R153 (D10, D15): the header, and a zero payload of 8 bytes for set-time, 78
for telemetry-report, 1 for bootloader-write-page and none for every other opcode; bytes beyond hold no
value. -/
def Obligations.TxNewBuildsTheDefaultFrame : Prop :=
  ∀ (s : State) (op : Byte) (hwid msgid : U16) (src dst : U4), s.cfg.WellFormed →
    let n := if op = s.cfg.opcSetTime then 8
      else if op = s.cfg.opcTelemetryReport then 78
      else if op = s.cfg.opcBootloaderWritePage then 1 else 0
    ∃ t, exec (.txNew op hwid msgid src dst) s = .next t ∧
      Stands t.cmd 0 ([s.cfg.startA, s.cfg.startB, BitVec.ofNat 8 (6 + n), hwid.extractLsb' 0 8,
        hwid.extractLsb' 8 8, msgid.extractLsb' 0 8, msgid.extractLsb' 8 8, src ++ dst, op]
          ++ List.replicate n 0#8) ∧
      (∀ a, 9 + n ≤ a → bufRead t.cmd a = none) ∧
      t.cmdValid = true ∧ SameFd s t ∧ SameRd s t ∧ Emits .nothing s t

/-- R156: the delay, 4 bytes little-endian, in a reboot frame; a no-op on another. -/
def Obligations.TxSetDelayStoresTheDelay : Prop :=
  ∀ (s : State) (delay : U32),
    (HoldsCommand s s.cfg.opcReboot → SetsPayload (.txSetDelay delay) (le32 delay) 10#8 s) ∧
    (HoldsOtherCommand s s.cfg.opcReboot → Ignored (.txSetDelay delay) s)

/-- R157 (D23): seconds then nanoseconds in a set-time frame, unchecked; a no-op on another. -/
def Obligations.TxSetTimeStoresBothTimes : Prop :=
  ∀ (s : State) (sec nsec : U32),
    (HoldsCommand s s.cfg.opcSetTime →
      SetsPayload (.txSetTime sec nsec) (le32 sec ++ le32 nsec) 14#8 s) ∧
    (HoldsOtherCommand s s.cfg.opcSetTime → Ignored (.txSetTime sec nsec) s)

/-- R158: a 78-byte buffer replaces the payload of a telemetry-report frame; any other length is
ignored. -/
def Obligations.TxSetTelemTakesOnly78Bytes : Prop :=
  ∀ (s : State) (buf : List Byte),
    (HoldsCommand s s.cfg.opcTelemetryReport → buf.length = 78 →
      SetsPayload (.txSetTelem buf) buf 84#8 s) ∧
    (HoldsCommand s s.cfg.opcTelemetryReport → buf.length ≠ 78 → Ignored (.txSetTelem buf) s) ∧
    (HoldsOtherCommand s s.cfg.opcTelemetryReport → Ignored (.txSetTelem buf) s)

/-- R159: the page number is always written; a 128-byte body is attached and `L` becomes 135; a body of
another length is ignored and every other byte of `CMD` stays. -/
def Obligations.TxSetPageWritesThePageNumberAlways : Prop :=
  ∀ (s : State) (page : Byte) (body : List Byte),
    (HoldsCommand s s.cfg.opcBootloaderWritePage → body.length = 128 →
      SetsPayload (.txSetPage page body) (page :: body) 135#8 s) ∧
    (HoldsCommand s s.cfg.opcBootloaderWritePage → body.length ≠ 128 →
      ∃ t, exec (.txSetPage page body) s = .next t ∧ bufRead t.cmd 9 = some page ∧
        SameOutside 9 1 s.cmd t.cmd ∧ t.cmdValid = s.cmdValid ∧ SameFd s t ∧ SameRd s t ∧
        Emits .nothing s t) ∧
    (HoldsOtherCommand s s.cfg.opcBootloaderWritePage → Ignored (.txSetPage page body) s)

/-- R160: a string of at most 249 bytes replaces the payload of a common-ascii frame and `L` becomes 6
plus its length; a longer one is ignored whole. -/
def Obligations.TxSetAsciiTakesUpTo249Bytes : Prop :=
  ∀ (s : State) (str : List Byte),
    (HoldsCommand s s.cfg.opcCommonAscii → str.length ≤ 249 →
      SetsPayload (.txSetAscii str) str (BitVec.ofNat 8 (6 + str.length)) s) ∧
    (HoldsCommand s s.cfg.opcCommonAscii → 249 < str.length → Ignored (.txSetAscii str) s) ∧
    (HoldsOtherCommand s s.cfg.opcCommonAscii → Ignored (.txSetAscii str) s)

/-- R161 (D13, D14): element `k` at payload bytes `2k` and `2k + 1` in the order `DATA_MSB_FIRST` fixes,
`L` becomes `6 + 2n`; more than 124 elements on a data-record frame are refused; on another frame any
number is a no-op. -/
def Obligations.TxSetDataStoresUpTo124Elements : Prop :=
  ∀ (s : State) (vals : List U16),
    (HoldsCommand s s.cfg.opcDataRecord → vals.length ≤ 124 →
      ∃ t, exec (.txSetData vals) s = .next t ∧
        (∀ k v, vals[k]? = some v →
          bufRead t.cmd (9 + 2 * k) = some (v.extractLsb' (if s.cfg.dataMsbFirst then 8 else 0) 8) ∧
          bufRead t.cmd (9 + 2 * k + 1)
            = some (v.extractLsb' (if s.cfg.dataMsbFirst then 0 else 8) 8)) ∧
        bufRead t.cmd 2 = some (BitVec.ofNat 8 (6 + 2 * vals.length)) ∧
        (∀ a, a ≠ 2 → a < 9 ∨ 9 + 2 * vals.length ≤ a → bufRead t.cmd a = bufRead s.cmd a) ∧
        t.cmdValid = s.cmdValid ∧ SameFd s t ∧ SameRd s t ∧ Emits .nothing s t) ∧
    (HoldsCommand s s.cfg.opcDataRecord → 124 < vals.length →
      exec (.txSetData vals) s = .refused .dataRecordTooLong) ∧
    (HoldsOtherCommand s s.cfg.opcDataRecord → Ignored (.txSetData vals) s)

/-- R155: no setter changes a header byte other than the length field, or `cmd_valid`, or anything of FD
or RD. -/
def Obligations.SettersKeepTheHeader : Prop :=
  ∀ (i : Instr) (s t : State),
    ((∃ v, i = .txSetDelay v) ∨ (∃ v w, i = .txSetTime v w) ∨ (∃ l, i = .txSetTelem l) ∨
      (∃ p l, i = .txSetPage p l) ∨ (∃ l, i = .txSetAscii l) ∨ (∃ l, i = .txSetData l)) →
    exec i s = .next t →
    (∀ a, a < 9 → a ≠ 2 → bufRead t.cmd a = bufRead s.cmd a) ∧
      t.cmdValid = s.cmdValid ∧ SameFd s t ∧ SameRd s t ∧ Emits .nothing s t

/-- R172 (D30): the command frame is output and nothing changes; before any TX_NEW the operation is
refused. -/
def Obligations.TxSerializeOutputsTheCommandFrame : Prop :=
  ∀ s : State,
    (∀ bytes, s.cmdValid = true → FrameIn s.cmd bytes →
      ∃ t, exec .txSerialize s = .next t ∧ SameFd s t ∧ SameCe s t ∧ SameRd s t ∧
        Emits (.frame bytes) s t) ∧
    (s.cmdValid = false → exec .txSerialize s = .refused .serializeBeforeNew)

/-- R173: what TX_SERIALIZE outputs, fed to a decoder in `AwaitStart0`, is what RX_READ then returns;
every byte is consumed. -/
def Obligations.CommandRoundTripsThroughTheDecoder : Prop :=
  ∀ (s : State) (bytes : List Byte) (rest : List Instr),
    Inv s → s.cmdValid = true → FrameIn s.cmd bytes → s.rxState = .awaitStart0 →
    s.host = .txSerialize :: (bytes.map Instr.rxByte ++ .rxRead :: rest) →
    ∃ t : State, Sys2Proof.core.run (bytes.length + 2) s = .next t ∧ t.rxState = .complete ∧
      t.host = rest ∧ SameCe s t ∧ SameRd s t ∧
      t.outputs = .read (some bytes)
        :: (List.replicate bytes.length (.consumed true) ++ .frame bytes :: s.outputs)

/-- R173, its last sentence: the same of a pending reply and RPL_SERIALIZE. -/
def Obligations.ReplyRoundTripsThroughTheDecoder : Prop :=
  ∀ (s : State) (bytes : List Byte) (rest : List Instr),
    Inv s → s.rplEmpty = false → FrameIn s.rpl bytes → s.rxState = .awaitStart0 →
    s.host = .rplSerialize :: (bytes.map Instr.rxByte ++ .rxRead :: rest) →
    ∃ t : State, Sys2Proof.core.run (bytes.length + 2) s = .next t ∧ t.rxState = .complete ∧
      t.host = rest ∧ SameCe s t ∧ SameRd s t ∧
      t.outputs = .read (some bytes)
        :: (List.replicate bytes.length (.consumed true) ++ .frame bytes :: s.outputs)

/-! ### The reply demultiplexer -/

/-- R196: get-telemetry is answered with telemetry-report and 78 zero bytes, whatever the device
state. -/
def Obligations.GetTelemetryIsAnsweredWithZeroTelemetry : Prop :=
  ∀ (s : State) (q : Request) (d : DeviceState), s.cfg.WellFormed → s.rplEmpty = true →
    HoldsRequest s s.cfg.opcGetTelemetry q →
    Answers (.getTelemetry q d) d s.cfg.opcTelemetryReport (List.replicate 78 0#8) q s

/-- R197: get-time is answered with the time in a set-time frame where `timeSet` is true, with
common-nack where it is false. -/
def Obligations.GetTimeIsAnsweredWithTheClock : Prop :=
  ∀ (s : State) (q : Request) (d : DeviceState), s.cfg.WellFormed → s.rplEmpty = true →
    HoldsRequest s s.cfg.opcGetTime q →
    (d.timeSet = true →
      Answers (.getTime q d) d s.cfg.opcSetTime (le32 d.nowSec ++ le32 d.nowNsec) q s) ∧
    (d.timeSet = false → Answers (.getTime q d) d s.cfg.opcCommonNack [] q s)

/-- R198 (D16, D17): reboot without a delay, or with one up to `MAX_DELAY` (unsigned, little-endian), is
acknowledged; a greater delay is answered with common-nack; another payload length is refused. -/
def Obligations.RebootIsAnsweredByTheDelayThreshold : Prop :=
  ∀ (s : State) (q : Request) (d : DeviceState), s.cfg.WellFormed → s.rplEmpty = true →
    HoldsRequest s s.cfg.opcReboot q →
    (q.payload = [] → Answers (.reboot q d) d s.cfg.opcCommonAck [] q s) ∧
    (∀ b0 b1 b2 b3 : Byte, q.payload = [b0, b1, b2, b3] →
      let delay := b0.toNat + 256 * b1.toNat + 65536 * b2.toNat + 16777216 * b3.toNat
      (delay ≤ s.cfg.maxDelay.toNat → Answers (.reboot q d) d s.cfg.opcCommonAck [] q s) ∧
      (s.cfg.maxDelay.toNat < delay → Answers (.reboot q d) d s.cfg.opcCommonNack [] q s)) ∧
    (q.payload.length ≠ 0 → q.payload.length ≠ 4 →
      exec (.reboot q d) s = .refused .rebootPayloadLength ∧
      exec (.replyGen d) s = .refused .rebootPayloadLength)

/-- R199, R207: set-time and common-ack are answered with common-ack, unconditionally. -/
def Obligations.SetTimeAndAckAreAcknowledged : Prop :=
  ∀ (s : State) (q : Request) (d : DeviceState), s.cfg.WellFormed → s.rplEmpty = true →
    (HoldsRequest s s.cfg.opcSetTime q → Answers (.setTime q d) d s.cfg.opcCommonAck [] q s) ∧
    (HoldsRequest s s.cfg.opcCommonAck q → Answers (.commonAck q d) d s.cfg.opcCommonAck [] q s)

/-- R200, R201, R206, R208, R209: five requests are answered with common-nack, unconditionally. -/
def Obligations.FiveRequestsAreAlwaysNacked : Prop :=
  ∀ (s : State) (q : Request) (d : DeviceState), s.cfg.WellFormed → s.rplEmpty = true →
    (HoldsRequest s s.cfg.opcTelemetryReport q →
      Answers (.telemetryReport q d) d s.cfg.opcCommonNack [] q s) ∧
    (HoldsRequest s s.cfg.opcBootloaderAck q →
      Answers (.bootloaderAck q d) d s.cfg.opcCommonNack [] q s) ∧
    (HoldsRequest s s.cfg.opcBootloaderNack q →
      Answers (.bootloaderNack q d) d s.cfg.opcCommonNack [] q s) ∧
    (HoldsRequest s s.cfg.opcCommonAscii q →
      Answers (.commonAscii q d) d s.cfg.opcCommonNack [] q s) ∧
    (HoldsRequest s s.cfg.opcCommonNack q →
      Answers (.commonNack q d) d s.cfg.opcCommonNack [] q s)

/-- R202, R203, R205: erase, ping and jump are answered with bootloader-ack and their reason code in
boot mode, with common-nack out of it. -/
def Obligations.BootModeGatesEraseAndPingAndJump : Prop :=
  ∀ (s : State) (q : Request) (d : DeviceState), s.cfg.WellFormed → s.rplEmpty = true →
    (HoldsRequest s s.cfg.opcBootloaderErase q →
      (d.bootMode = true → Answers (.bootloaderErase q d) d s.cfg.opcBootloaderAck
        [s.cfg.reasonErased] q s) ∧
      (d.bootMode = false → Answers (.bootloaderErase q d) d s.cfg.opcCommonNack [] q s)) ∧
    (HoldsRequest s s.cfg.opcBootloaderPing q →
      (d.bootMode = true → Answers (.bootloaderPing q d) d s.cfg.opcBootloaderAck
        [s.cfg.reasonPong] q s) ∧
      (d.bootMode = false → Answers (.bootloaderPing q d) d s.cfg.opcCommonNack [] q s)) ∧
    (HoldsRequest s s.cfg.opcBootloaderJump q →
      (d.bootMode = true → Answers (.bootloaderJump q d) d s.cfg.opcBootloaderAck
        [s.cfg.reasonJump] q s) ∧
      (d.bootMode = false → Answers (.bootloaderJump q d) d s.cfg.opcCommonNack [] q s))

/-- R204 (D18): `bootMode` before `flashWriteOk`; in the echo branch the first payload byte of the
request comes back, and an empty payload is refused there only. -/
def Obligations.WritePageEchoesThePageNumber : Prop :=
  ∀ (s : State) (q : Request) (d : DeviceState), s.cfg.WellFormed → s.rplEmpty = true →
    HoldsRequest s s.cfg.opcBootloaderWritePage q →
    (d.bootMode = false → Answers (.bootloaderWritePage q d) d s.cfg.opcCommonNack [] q s) ∧
    (d.bootMode = true → d.flashWriteOk = false →
      Answers (.bootloaderWritePage q d) d s.cfg.opcBootloaderNack [] q s) ∧
    (d.bootMode = true → d.flashWriteOk = true →
      (∀ page body, q.payload = page :: body →
        Answers (.bootloaderWritePage q d) d s.cfg.opcBootloaderAck [page] q s) ∧
      (q.payload = [] → exec (.bootloaderWritePage q d) s = .refused .writePageNoPageNumber ∧
        exec (.replyGen d) s = .refused .writePageNoPageNumber))

/-- R210, R211 (D19): a request outside the dispatch, data-record among them, gets no reply and changes
nothing under the policy `NoReply`, and common-nack under `Nack`. -/
def Obligations.UnrecognizedRequestsFollowThePolicy : Prop :=
  ∀ (s : State) (q : Request) (d : DeviceState) (i : Instr) (op : Byte), s.cfg.WellFormed →
    s.rplEmpty = true → HoldsRequest s op q →
    (op = s.cfg.opcDataRecord ∧ i = .dataRecord q d ∨
      op ∉ s.cfg.opcodes ∧ i = .unrecognized op q d) →
    (s.cfg.unrecognizedPolicy = .noReply →
      ∃ t, exec i s = .next t ∧ exec (.replyGen d) s = .next t ∧ SameFd s t ∧ SameCe s t ∧
        SameRd s t ∧ Emits (.reply .noReply) s t) ∧
    (s.cfg.unrecognizedPolicy = .nack → Answers i d s.cfg.opcCommonNack [] q s)

/-- R192 (D20): where no request is complete, or a reply is pending, REPLY_GEN changes nothing and
reports `NotInvoked`. -/
def Obligations.ReplyGenOutsideItsPreconditionIsNotInvoked : Prop :=
  ∀ (s : State) (d : DeviceState), s.rxState ≠ .complete ∨ s.rplEmpty = false →
    ∃ t, exec (.replyGen d) s = .next t ∧ SameFd s t ∧ SameCe s t ∧ SameRd s t ∧
      Emits (.reply .notInvoked) s t

/-- R190, R194 (D21): REPLY_GEN leaves the decoder and the encoder as they were. -/
def Obligations.ReplyGenLeavesDecoderAndEncoder : Prop :=
  ∀ (s t : State) (d : DeviceState), exec (.replyGen d) s = .next t →
    SameFd s t ∧ SameCe s t ∧ ∃ r, Emits (.reply r) s t ∧ (r ≠ .replied → SameRd s t)

/-- R212, R213: every reply is one of six templates, with the header and the length the template
gives. -/
def Obligations.RepliesAreOneOfSixTemplates : Prop :=
  ∀ (s t : State) (d : DeviceState), exec (.replyGen d) s = .next t →
    Emits (.reply .replied) s t →
    t.rplEmpty = false ∧ Marked s.cfg t.rpl ∧
    (∀ a, 3 ≤ a → a ≤ 6 → bufRead t.rpl a = bufRead s.rx a) ∧
    bufRead t.rpl 7 = (bufRead s.rx 7).map swap4 ∧
    ∃ op len, bufRead t.rpl 8 = some op ∧ bufRead t.rpl 2 = some len ∧
      (op = s.cfg.opcCommonAck ∧ len = 6#8 ∨
        op = s.cfg.opcCommonNack ∧ len = 6#8 ∨
        op = s.cfg.opcBootloaderAck ∧ len = 7#8 ∧
          (bufRead t.rpl 9 = some s.cfg.reasonPong ∨ bufRead t.rpl 9 = some s.cfg.reasonErased ∨
            bufRead t.rpl 9 = some s.cfg.reasonJump ∨ bufRead t.rpl 9 = bufRead s.rx 9) ∨
        op = s.cfg.opcBootloaderNack ∧ len = 6#8 ∨
        op = s.cfg.opcSetTime ∧ len = 14#8 ∧ Stands t.rpl 9 (le32 d.nowSec ++ le32 d.nowNsec) ∨
        op = s.cfg.opcTelemetryReport ∧ len = 84#8 ∧ Stands t.rpl 9 (List.replicate 78 0#8))

/-- R214: what REPLY_GEN does is determined by the configuration, `RX[2..12]`, `rx_state`, `rpl_empty`
and its operands, and by nothing else. -/
def Obligations.ReplyGenDependsOnTheRequestAlone : Prop :=
  ∀ (s s' : State) (d : DeviceState), Inv s → Inv s' → s'.cfg = s.cfg →
    s'.rxState = s.rxState → s'.rplEmpty = s.rplEmpty →
    (∀ a, 2 ≤ a → a ≤ 12 → bufRead s'.rx a = bufRead s.rx a) →
    (∃ r, exec (.replyGen d) s = .refused r ∧ exec (.replyGen d) s' = .refused r) ∨
    ∃ r t t', exec (.replyGen d) s = .next t ∧ exec (.replyGen d) s' = .next t' ∧
      Emits (.reply r) s t ∧ Emits (.reply r) s' t' ∧ t'.rplEmpty = t.rplEmpty ∧
      (r = .replied → ∀ a, bufRead t'.rpl a = bufRead t.rpl a)

/-- R216 (D26): the pending reply is output and stays pending; with none pending the output is empty. -/
def Obligations.RplSerializeOutputsThePendingReply : Prop :=
  ∀ s : State,
    (∀ bytes, s.rplEmpty = false → FrameIn s.rpl bytes →
      ∃ t, exec .rplSerialize s = .next t ∧ SameFd s t ∧ SameCe s t ∧ SameRd s t ∧
        Emits (.frame bytes) s t) ∧
    (s.rplEmpty = true →
      ∃ t, exec .rplSerialize s = .next t ∧ SameFd s t ∧ SameCe s t ∧ SameRd s t ∧
        Emits (.frame []) s t)

/-- R217 (D26): no reply is pending and no byte of `RPL` holds a value; the decoder and the encoder are
untouched. -/
def Obligations.RplClearDropsTheReply : Prop :=
  ∀ s : State, ∃ t, exec .rplClear s = .next t ∧ t.rplEmpty = true ∧
    (∀ a, bufRead t.rpl a = none) ∧ SameFd s t ∧ SameCe s t ∧ Emits .nothing s t

/-! ### The whole machine -/

/-- R36 with R162: the invariant of the block holds after reset (under `Cfg0`, log 1). -/
def Obligations.ResetMeetsTheInvariant : Prop :=
  Inv State.reset

/-- R36 with R162: every step keeps the invariant of the block. -/
def Obligations.EveryStepKeepsTheInvariant : Prop :=
  ∀ s t : State, Inv s → step s = .next t → Inv t

/-- R10, R27: from a state with the invariant no step faults: no byte that holds no value is read and no
offset above 257 is computed. -/
def Obligations.SoundStatesNeverFault : Prop :=
  ∀ s : State, Inv s → ∀ f, step s ≠ .fault f

/-- R10, R261 (D13, D16, D18, D30): from a state with the invariant the operations without a next state
are exactly the four the spec refuses; every other operation has one. That the four end in a refusal and
not in a fault is said beside each of them, and by `SoundStatesNeverFault`. -/
def Obligations.ExactlyFourInputsAreRefused : Prop :=
  ∀ (s : State) (i : Instr), Inv s → i.isOperation = true →
    ((∃ t, exec i s = .next t) ↔
      ¬ ((i = .txSerialize ∧ s.cmdValid = false) ∨
        (∃ vals, i = .txSetData vals ∧ 124 < vals.length ∧ HoldsCommand s s.cfg.opcDataRecord) ∨
        (∃ d q, i = .replyGen d ∧ s.rplEmpty = true ∧ HoldsRequest s s.cfg.opcReboot q ∧
          q.payload.length ≠ 0 ∧ q.payload.length ≠ 4) ∨
        (∃ d q, i = .replyGen d ∧ s.rplEmpty = true ∧
          HoldsRequest s s.cfg.opcBootloaderWritePage q ∧ q.payload = [] ∧
          d.bootMode = true ∧ d.flashWriteOk = true)))

/-- Every instruction keeps the canonical form of the three buffers (the model's form of 10_state.md
R33, log 8), in every state. -/
def Obligations.EveryInstructionKeepsTheMemoryCanonical : Prop :=
  ∀ (s t : State) (i : Instr), Memory.wf s = true → exec i s = .next t → Memory.wf t = true

/-- R25, R26, R217: which instructions may change a byte of each buffer. -/
def Obligations.BuffersAreWrittenByTheirOwnUnit : Prop :=
  ∀ (s t : State) (i : Instr), exec i s = .next t →
    (t.rx ≠ s.rx → (∃ b, i = .rxByte b) ∨ i = .rxClear ∨ i = .reset) ∧
    (t.cmd ≠ s.cmd → (∃ op h m a b, i = .txNew op h m a b) ∨ (∃ v, i = .txSetDelay v) ∨
      (∃ v w, i = .txSetTime v w) ∨ (∃ l, i = .txSetTelem l) ∨ (∃ p l, i = .txSetPage p l) ∨
      (∃ l, i = .txSetAscii l) ∨ (∃ l, i = .txSetData l) ∨ i = .reset) ∧
    (t.rpl ≠ s.rpl → (∃ d, i = .replyGen d) ∨ i.isOperation = false ∨ i = .rplClear ∨ i = .reset)

/-- R28, R29, R30, R31: what sets and clears each flag, and that the configuration never changes. -/
def Obligations.FlagsChangeOnlyByTheirOperations : Prop :=
  ∀ (s t : State) (i : Instr), exec i s = .next t →
    t.cfg = s.cfg ∧ t.host = s.host ∧
    (rxComplete s = false → rxComplete t = true → ∃ b, i = .rxByte b) ∧
    (rxComplete s = true → rxComplete t = false → i = .rxClear ∨ i = .reset) ∧
    (rxComplete s = true → rxComplete t = true → t.rx = s.rx) ∧
    (s.rplEmpty = true → t.rplEmpty = false →
      ((∃ d, i = .replyGen d) ∨ i.isOperation = false) ∧ Emits (.reply .replied) s t) ∧
    (s.rplEmpty = false → t.rplEmpty = true → i = .rplClear ∨ i = .reset) ∧
    (s.cmdValid = false → t.cmdValid = true → ∃ op h m a b, i = .txNew op h m a b) ∧
    (s.cmdValid = true → t.cmdValid = false → i = .reset)

/-- R22: `rx_state` and `rx_cnt` are written by RESET, RX_CLEAR and RX_BYTE alone; RESET and RX_CLEAR go
to `AwaitStart0`; a byte moves the decoder to the next state of R21's order but for the exceptions R22
names, and from `Complete` it moves it nowhere. In a state no run reaches, with a length byte below 6, the
payload length is 0 by the model's choice (log 18). -/
def Obligations.TheDecoderMovesForwardByOneByte : Prop :=
  ∀ (s t : State) (i : Instr), exec i s = .next t →
    ((t.rxState ≠ s.rxState ∨ t.rxCnt ≠ s.rxCnt) →
      (∃ b, i = .rxByte b) ∨ i = .rxClear ∨ i = .reset) ∧
    (i = .rxClear ∨ i = .reset → t.rxState = .awaitStart0 ∧ t.rxCnt = 0) ∧
    (∀ b, i = .rxByte b →
      rxOrder t.rxState = rxOrder s.rxState + 1 ∨
      (t.rxState = s.rxState ∧
        (s.rxState = .awaitStart0 ∨ s.rxState = .payload ∨ s.rxState = .complete)) ∨
      (t.rxState = .awaitStart0 ∧ (s.rxState = .awaitStart1 ∨ s.rxState = .awaitLength)) ∨
      (s.rxState = .opcode ∧ t.rxState = .complete ∧
        ∃ len, bufRead s.rx 2 = some len ∧ len.toNat - 6 = 0))
end

