-- ==== Sys2Proof/Laws/Buffer.lean ====
section
/-! SUPPORT. What the buffer operations do: a read after a write, the canonical form kept, whole frames
read back. -/

namespace Sys2Proof.Machine

/-! ### Read after write -/

@[simp] theorem bufRead_nil (a : Nat) : bufRead [] a = none := rfl

/-- A write is read back at its offset and leaves every other offset alone. -/
theorem bufRead_bufWrite (b : Buffer) (off : Nat) (v : Byte) (a : Nat) :
    bufRead (bufWrite b off v) a = if a = off then some v else bufRead b a := by
  induction b with
  | nil =>
    by_cases h : a = off
    · simp [bufWrite, bufRead, h]
    · have : ¬ off = a := fun e => h e.symm
      simp [bufWrite, bufRead, h, this]
  | cons cell cells ih =>
    obtain ⟨x, w⟩ := cell
    simp only [bufWrite]
    split
    · by_cases h : a = off
      · simp [bufRead, h]
      · have : ¬ off = a := fun e => h e.symm
        simp [bufRead, h, this]
    · split
      · rename_i hx
        subst hx
        by_cases h : a = x
        · simp [bufRead, h]
        · have : ¬ x = a := fun e => h e.symm
          simp [bufRead, h, this]
      · rename_i hx
        simp only [bufRead, ih]
        by_cases h : x = a
        · have : ¬ a = off := fun e => hx (h.trans e)
          simp [h, this]
        · simp [h]

@[simp] theorem bufRead_bufWrite_same (b : Buffer) (off : Nat) (v : Byte) :
    bufRead (bufWrite b off v) off = some v := by simp [bufRead_bufWrite]

theorem bufRead_bufWrite_other (b : Buffer) {off a : Nat} (v : Byte) (h : a ≠ off) :
    bufRead (bufWrite b off v) a = bufRead b a := by simp [bufRead_bufWrite, h]

/-- A run of writes is read back in its range and leaves every other offset alone. -/
theorem bufRead_bufWriteAll (l : List Byte) (b : Buffer) (off a : Nat) :
    bufRead (bufWriteAll b off l) a
      = if off ≤ a ∧ a < off + l.length then l[a - off]? else bufRead b a := by
  induction l generalizing b off with
  | nil =>
    have : ¬ (off ≤ a ∧ a < off + 0) := by omega
    simp only [bufWriteAll, List.length_nil, this, if_false]
  | cons v vs ih =>
    simp only [bufWriteAll, ih, bufRead_bufWrite, List.length_cons]
    rcases Nat.lt_trichotomy a off with h | h | h
    · simp [show ¬ off + 1 ≤ a by omega, show ¬ off ≤ a by omega, show ¬ a = off by omega]
    · subst h; simp
    · obtain ⟨k, rfl⟩ := Nat.exists_eq_add_of_lt h
      simp only [show ¬ off + k + 1 = off by omega, if_false,
        show off + k + 1 - (off + 1) = k by omega, show off + k + 1 - off = k + 1 by omega,
        List.getElem?_cons_succ]
      by_cases hk : k < vs.length
      · rw [if_pos (by omega), if_pos (by omega)]
      · rw [if_neg (by omega), if_neg (by omega)]

theorem stands_bufWriteAll (b : Buffer) (off : Nat) (l : List Byte) :
    Stands (bufWriteAll b off l) off l := by
  intro k hk
  rw [bufRead_bufWriteAll, if_pos (by omega), Nat.add_sub_cancel_left]

theorem sameOutside_bufWriteAll (b : Buffer) (off : Nat) (l : List Byte) :
    SameOutside off l.length b (bufWriteAll b off l) := by
  intro a ha
  rw [bufRead_bufWriteAll, if_neg (by omega)]

theorem sameOutside_bufWrite (b : Buffer) (off : Nat) (v : Byte) :
    SameOutside off 1 b (bufWrite b off v) := by
  intro a ha
  exact bufRead_bufWrite_other b v (by omega)

/-! ### Reading several bytes -/

/-- Reading `n` bytes yields exactly the bytes that stand there. -/
theorem bufReadAll_eq_some {b : Buffer} {off n : Nat} {l : List Byte} :
    bufReadAll b off n = some l ↔ l.length = n ∧ Stands b off l := by
  induction n generalizing off l with
  | zero =>
    constructor
    · intro h
      simp only [bufReadAll, Option.some.injEq] at h
      subst h
      exact ⟨rfl, fun k hk => absurd hk (by simp)⟩
    · rintro ⟨h, -⟩
      rw [List.length_eq_zero_iff] at h
      subst h; rfl
  | succ n ih =>
    simp only [bufReadAll]
    constructor
    · intro h
      split at h
      · cases h
      · rename_i v hv
        split at h
        · cases h
        · rename_i vs hvs
          obtain ⟨hl, hs⟩ := ih.1 hvs
          simp only [Option.some.injEq] at h
          subst h
          refine ⟨by simp [hl], fun k hk => ?_⟩
          cases k with
          | zero => simpa using hv
          | succ k =>
            have := hs k (by simpa using hk)
            rw [show off + (k + 1) = off + 1 + k by omega, this]
            simp
    · rintro ⟨hl, hs⟩
      cases l with
      | nil => simp at hl
      | cons v vs =>
        have h0 := hs 0 (by simp)
        simp only [Nat.add_zero, List.getElem?_cons_zero] at h0
        have ht : Stands b (off + 1) vs := by
          intro k hk
          have := hs (k + 1) (by simpa using hk)
          rw [show off + 1 + k = off + (k + 1) by omega, this]
          simp
        have := ih.2 ⟨by simpa using hl, ht⟩
        rw [h0, this]

/-- The serializer's bytes are the frame in the buffer (41_command_encoder.md R170). -/
theorem bufFrame_eq_some {b : Buffer} {l : List Byte} : bufFrame b = some l ↔ FrameIn b l := by
  unfold bufFrame FrameIn
  constructor
  · intro h
    split at h
    · cases h
    · rename_i len hlen
      obtain ⟨h1, h2⟩ := bufReadAll_eq_some.1 h
      exact ⟨h2, len, hlen, h1⟩
  · rintro ⟨hs, len, hlen, hl⟩
    rw [hlen]
    exact bufReadAll_eq_some.2 ⟨hl, hs⟩

/-! ### The canonical form -/

theorem keys_bufWrite_mem {b : Buffer} {off : Nat} {v : Byte} {k : Nat}
    (h : k ∈ (bufWrite b off v).map Prod.fst) : k = off ∨ k ∈ b.map Prod.fst := by
  induction b with
  | nil => simpa [bufWrite] using h
  | cons cell cells ih =>
    obtain ⟨x, w⟩ := cell
    simp only [bufWrite] at h
    split at h
    · simpa using h
    · split at h
      · rename_i hx
        simp only [List.map_cons, List.mem_cons] at h ⊢
        rcases h with h | h
        · exact .inl h
        · exact .inr (.inr h)
      · simp only [List.map_cons, List.mem_cons] at h ⊢
        rcases h with h | h
        · exact .inr (.inl h)
        · exact (ih h).imp id .inr

theorem rising_bufWrite {b : Buffer} (off : Nat) (v : Byte)
    (h : (b.map Prod.fst).Pairwise (· < ·)) :
    ((bufWrite b off v).map Prod.fst).Pairwise (· < ·) := by
  induction b with
  | nil => simp [bufWrite]
  | cons cell cells ih =>
    obtain ⟨x, w⟩ := cell
    simp only [List.map_cons, List.pairwise_cons] at h
    simp only [bufWrite]
    split
    · rename_i hx
      simp only [List.map_cons, List.pairwise_cons, List.mem_cons]
      refine ⟨?_, h.1, h.2⟩
      rintro k (rfl | hk)
      · exact hx
      · exact lt_trans hx (h.1 k hk)
    · split
      · rename_i hx
        subst hx
        simpa [List.pairwise_cons] using h
      · rename_i h1 h2
        simp only [List.map_cons, List.pairwise_cons]
        refine ⟨fun k hk => ?_, ih h.2⟩
        rcases keys_bufWrite_mem hk with rfl | hk
        · omega
        · exact h.1 k hk

theorem bufferWf_iff {b : Buffer} : bufferWf b = true ↔
    (b.map Prod.fst).Pairwise (· < ·) ∧ ∀ k ∈ b.map Prod.fst, k < frameMax := by
  simp [bufferWf]

@[simp] theorem bufferWf_nil : bufferWf [] = true := rfl

/-- A write below 258 keeps the canonical form. -/
theorem bufferWf_bufWrite {b : Buffer} {off : Nat} (v : Byte) (h : bufferWf b = true)
    (hoff : off < frameMax) : bufferWf (bufWrite b off v) = true := by
  rw [bufferWf_iff] at h ⊢
  refine ⟨rising_bufWrite off v h.1, fun k hk => ?_⟩
  rcases keys_bufWrite_mem hk with rfl | hk
  · exact hoff
  · exact h.2 k hk

/-- A run of writes that ends at or below 258 keeps the canonical form. -/
theorem bufferWf_bufWriteAll {b : Buffer} {off : Nat} (l : List Byte) (h : bufferWf b = true)
    (hoff : off + l.length ≤ frameMax) : bufferWf (bufWriteAll b off l) = true := by
  induction l generalizing b off with
  | nil => exact h
  | cons v vs ih =>
    simp only [List.length_cons] at hoff
    exact ih (bufferWf_bufWrite v h (by omega)) (by omega)

/-- `MemWrite` keeps the canonical form. -/
theorem bufferWf_memWrite {b : Buffer} {off n : Nat} (v : Nat) (h : bufferWf b = true)
    (hoff : off + (leBytes n v).length ≤ frameMax) : bufferWf (memWrite b off n v) = true :=
  bufferWf_bufWriteAll _ h hoff

/-! ### Buffers whose held bytes are a prefix -/

theorem keys_bufWrite_inside {b : Buffer} {s n off : Nat} (v : Byte)
    (h : b.map Prod.fst = List.range' s n) (h1 : s ≤ off) (h2 : off < s + n) :
    (bufWrite b off v).map Prod.fst = List.range' s n := by
  induction b generalizing s n with
  | nil => cases n <;> simp [List.range'_succ] at h; omega
  | cons cell cells ih =>
    obtain ⟨x, w⟩ := cell
    cases n with
    | zero => omega
    | succ n =>
      simp only [List.map_cons, List.range'_succ, List.cons.injEq] at h
      obtain ⟨rfl, h⟩ := h
      simp only [bufWrite, show ¬ off < x by omega, if_false]
      by_cases hx : x = off
      · simp [hx, List.range'_succ, h]
      · simp only [hx, if_false, List.map_cons, List.range'_succ]
        rw [ih h (by omega) (by omega)]

theorem keys_bufWrite_end {b : Buffer} {s n : Nat} (v : Byte)
    (h : b.map Prod.fst = List.range' s n) :
    (bufWrite b (s + n) v).map Prod.fst = List.range' s (n + 1) := by
  induction b generalizing s n with
  | nil =>
    cases n with
    | zero => simp [bufWrite, List.range'_succ]
    | succ n => simp [List.range'_succ] at h
  | cons cell cells ih =>
    obtain ⟨x, w⟩ := cell
    cases n with
    | zero => simp at h
    | succ n =>
      simp only [List.map_cons, List.range'_succ, List.cons.injEq] at h
      obtain ⟨rfl, h⟩ := h
      simp only [bufWrite, show ¬ x + (n + 1) < x by omega, show ¬ x = x + (n + 1) by omega, if_false,
        List.map_cons]
      rw [List.range'_succ, show x + (n + 1) = x + 1 + n by omega, ih h]

/-- A write inside a held prefix keeps it; a write at its end extends it by one. -/
theorem holdsPrefix_bufWrite {b : Buffer} {n off : Nat} (v : Byte) (h : HoldsPrefix b n)
    (hoff : off ≤ n) : HoldsPrefix (bufWrite b off v) (max n (off + 1)) := by
  simp only [HoldsPrefix, List.range_eq_range'] at h ⊢
  rcases Nat.lt_or_ge off n with h1 | h1
  · rw [show max n (off + 1) = n by omega]
    exact keys_bufWrite_inside v h (by omega) (by omega)
  · have : off = 0 + n := by omega
    rw [show max n (off + 1) = n + 1 by omega, this]
    exact keys_bufWrite_end v h

/-- A run of writes that starts inside a held prefix or at its end leaves a held prefix. -/
theorem holdsPrefix_bufWriteAll {b : Buffer} {n off : Nat} (l : List Byte) (h : HoldsPrefix b n)
    (hoff : off ≤ n) : HoldsPrefix (bufWriteAll b off l) (max n (off + l.length)) := by
  induction l generalizing b n off with
  | nil => simpa [bufWriteAll, hoff] using h
  | cons v vs ih =>
    have := ih (off := off + 1) (holdsPrefix_bufWrite v h hoff) (by omega)
    simp only [bufWriteAll, List.length_cons]
    rwa [show max n (off + (vs.length + 1)) = max (max n (off + 1)) (off + 1 + vs.length) by omega]

theorem bufRead_isSome_iff {b : Buffer} {a : Nat} :
    (bufRead b a).isSome ↔ a ∈ b.map Prod.fst := by
  induction b with
  | nil => simp
  | cons cell cells ih =>
    obtain ⟨x, w⟩ := cell
    simp only [bufRead, List.map_cons, List.mem_cons]
    by_cases h : x = a
    · simp [h]
    · have : ¬ a = x := fun e => h e.symm
      simp [h, this, ih]

/-- Below a held prefix every byte holds a value, above it none does. -/
theorem holdsPrefix_isSome {b : Buffer} {n a : Nat} (h : HoldsPrefix b n) :
    (bufRead b a).isSome ↔ a < n := by
  rw [bufRead_isSome_iff, h, List.mem_range]

/-- A held prefix can be read whole. -/
theorem holdsPrefix_read {b : Buffer} {n m : Nat} (h : HoldsPrefix b n) (hm : m ≤ n) :
    ∃ l, bufReadAll b 0 m = some l := by
  suffices ∀ k off, off + k ≤ n → ∃ l, bufReadAll b off k = some l by exact this m 0 (by omega)
  intro k
  induction k with
  | zero => exact fun off _ => ⟨[], rfl⟩
  | succ k ih =>
    intro off hk
    obtain ⟨v, hv⟩ := Option.isSome_iff_exists.1 ((holdsPrefix_isSome h (a := off)).2 (by omega))
    obtain ⟨l, hl⟩ := ih (off + 1) (by omega)
    exact ⟨v :: l, by simp [bufReadAll, hv, hl]⟩

theorem holdsPrefix_wf {b : Buffer} {n : Nat} (h : HoldsPrefix b n) (hn : n ≤ frameMax) :
    bufferWf b = true := by
  rw [bufferWf_iff, h]
  exact ⟨List.pairwise_lt_range, fun k hk => lt_of_lt_of_le (List.mem_range.1 hk) hn⟩

end Sys2Proof.Machine
end

