-- ==== Sys2Proof/Laws/Bytes.lean ====
section
/-! SUPPORT. Byte order, nibbles, and the bytes of a frame. -/

namespace Sys2Proof

@[simp] theorem leBytes_length (n v : Nat) : (leBytes n v).length = n := by
  induction n generalizing v with
  | zero => rfl
  | succ n ih => simp [leBytes, ih]

theorem leBytes_getElem? (n v k : Nat) (h : k < n) :
    (leBytes n v)[k]? = some (BitVec.ofNat 8 (v / 256 ^ k)) := by
  induction n generalizing v k with
  | zero => omega
  | succ n ih =>
    cases k with
    | zero => simp [leBytes]
    | succ k =>
      simp only [leBytes, List.getElem?_cons_succ, ih (v / 256) k (by omega)]
      rw [Nat.div_div_eq_div_mul, Nat.pow_succ, Nat.mul_comm]

/-- Assembly of a little-endian store yields the low `8n` bits. -/
theorem leValue_leBytes (n v : Nat) : leValue (leBytes n v) = v % 256 ^ n := by
  induction n generalizing v with
  | zero => simp [leBytes, leValue, Nat.mod_one]
  | succ n ih =>
    simp only [leBytes, leValue, ih, BitVec.toNat_ofNat]
    rw [show 256 ^ (n + 1) = 256 * 256 ^ n from Nat.pow_succ', Nat.mod_mul]

theorem leValue_lt (l : List Byte) : leValue l < 256 ^ l.length := by
  induction l with
  | nil => simp [leValue]
  | cons b l ih =>
    have := b.isLt
    simp only [leValue, List.length_cons, Nat.pow_succ]
    omega

/-- Storing an assembled value gives the bytes back. -/
theorem leBytes_leValue (l : List Byte) : leBytes l.length (leValue l) = l := by
  induction l with
  | nil => rfl
  | cons b l ih =>
    have hb := b.isLt
    simp only [List.length_cons, leBytes, leValue]
    congr 1
    · apply BitVec.eq_of_toNat_eq
      simp only [BitVec.toNat_ofNat]
      omega
    · rw [show (b.toNat + 256 * leValue l) / 256 = leValue l by omega, ih]

theorem leBytes_u16 (v : U16) :
    leBytes 2 v.toNat = [v.extractLsb' 0 8, v.extractLsb' 8 8] := by
  simp only [leBytes, List.cons.injEq, and_true]
  refine ⟨BitVec.eq_of_toNat_eq ?_, BitVec.eq_of_toNat_eq ?_⟩ <;>
    simp [BitVec.extractLsb'_toNat, Nat.shiftRight_eq_div_pow]

theorem leBytes_u32 (v : U32) : leBytes 4 v.toNat = Machine.le32 v := by
  simp only [leBytes, Machine.le32, List.cons.injEq, and_true]
  refine ⟨BitVec.eq_of_toNat_eq ?_, BitVec.eq_of_toNat_eq ?_, BitVec.eq_of_toNat_eq ?_,
    BitVec.eq_of_toNat_eq ?_⟩ <;>
    simp [BitVec.extractLsb'_toNat, Nat.shiftRight_eq_div_pow, Nat.div_div_eq_div_mul]

/-! ### Nibbles -/

theorem packAddr_nibbles (a : Byte) : packAddr (hi4 a) (lo4 a) = a := by
  simp only [packAddr, hi4, lo4]
  ext i hi
  simp only [BitVec.getElem_append, BitVec.getElem_extractLsb']
  split
  · simp [BitVec.getLsbD_eq_getElem hi]
  · rw [show 4 + (i - 4) = i by omega]
    simp [BitVec.getLsbD_eq_getElem hi]

@[simp] theorem hi4_packAddr (s d : U4) : hi4 (packAddr s d) = s := by
  simp only [packAddr, hi4]
  ext i hi
  simp only [BitVec.getElem_extractLsb', BitVec.getLsbD_append]
  rw [if_neg (by omega), show 4 + i - 4 = i by omega]
  simp [hi]

@[simp] theorem lo4_packAddr (s d : U4) : lo4 (packAddr s d) = d := by
  simp only [packAddr, lo4]
  ext i hi
  simp only [BitVec.getElem_extractLsb', BitVec.getLsbD_append]
  rw [if_pos (by omega)]
  simp [hi]

/-! ### Lengths -/

theorem lenByte_toNat {n : Nat} (h : n ≤ pldMax) : (lenByte n).toNat = hdrCounted + n := by
  simp only [lenByte, BitVec.toNat_ofNat, hdrCounted, pldMax] at *
  omega

theorem pldLen_lenByte {n : Nat} (h : n ≤ pldMax) : pldLen (lenByte n) = n := by
  simp [pldLen, lenByte_toNat h]

theorem lenByte_pldLen {len : Byte} (h : lenMin ≤ len.toNat) : lenByte (pldLen len) = len := by
  apply BitVec.eq_of_toNat_eq
  have := len.isLt
  simp only [lenByte, pldLen, BitVec.toNat_ofNat, hdrCounted, lenMin] at *
  omega

theorem pldLen_le (len : Byte) : pldLen len ≤ pldMax := by
  have := len.isLt
  simp only [pldLen, hdrCounted, pldMax]
  omega

/-! ### Frames -/

@[simp] theorem frameOf_length (c : Cfg) (op : Byte) (q : Request) :
    (frameOf c op q).length = offPld + q.payload.length := by
  simp only [frameOf, List.length_append, List.length_cons, List.length_nil, leBytes_length, offPld]

/-- The bytes of a frame at their offsets (30_encoding.md R80). -/
theorem frameOf_eq (c : Cfg) (op : Byte) (q : Request) :
    frameOf c op q = c.startA :: c.startB :: lenByte q.payload.length ::
      q.hwid.extractLsb' 0 8 :: q.hwid.extractLsb' 8 8 ::
      q.msgid.extractLsb' 0 8 :: q.msgid.extractLsb' 8 8 ::
      packAddr q.src q.dst :: op :: q.payload := by
  simp [frameOf, leBytes_u16]

/-! ### The row an opcode selects -/

/-- What holds of the row each opcode value selects holds of the row an opcode byte selects. -/
theorem instrOf_ind (P : Instr → Prop) (c : Cfg) (op : Byte) (q : Request) (d : DeviceState)
    (bootloaderPing : op = c.opcBootloaderPing → P (.bootloaderPing q d))
    (bootloaderAck : op = c.opcBootloaderAck → P (.bootloaderAck q d))
    (bootloaderWritePage : op = c.opcBootloaderWritePage → P (.bootloaderWritePage q d))
    (bootloaderJump : op = c.opcBootloaderJump → P (.bootloaderJump q d))
    (bootloaderErase : op = c.opcBootloaderErase → P (.bootloaderErase q d))
    (bootloaderNack : op = c.opcBootloaderNack → P (.bootloaderNack q d))
    (commonAck : op = c.opcCommonAck → P (.commonAck q d))
    (commonAscii : op = c.opcCommonAscii → P (.commonAscii q d))
    (reboot : op = c.opcReboot → P (.reboot q d))
    (getTime : op = c.opcGetTime → P (.getTime q d))
    (setTime : op = c.opcSetTime → P (.setTime q d))
    (dataRecord : op = c.opcDataRecord → P (.dataRecord q d))
    (getTelemetry : op = c.opcGetTelemetry → P (.getTelemetry q d))
    (telemetryReport : op = c.opcTelemetryReport → P (.telemetryReport q d))
    (commonNack : op = c.opcCommonNack → P (.commonNack q d))
    (unrecognized : op ∉ c.opcodes → P (.unrecognized op q d)) : P (instrOf c op q d) := by
  unfold instrOf
  by_cases h0 : op = c.opcBootloaderPing
  · rw [if_pos h0]
    exact bootloaderPing h0
  rw [if_neg h0]
  by_cases h1 : op = c.opcBootloaderAck
  · rw [if_pos h1]
    exact bootloaderAck h1
  rw [if_neg h1]
  by_cases h2 : op = c.opcBootloaderWritePage
  · rw [if_pos h2]
    exact bootloaderWritePage h2
  rw [if_neg h2]
  by_cases h3 : op = c.opcBootloaderJump
  · rw [if_pos h3]
    exact bootloaderJump h3
  rw [if_neg h3]
  by_cases h4 : op = c.opcBootloaderErase
  · rw [if_pos h4]
    exact bootloaderErase h4
  rw [if_neg h4]
  by_cases h5 : op = c.opcBootloaderNack
  · rw [if_pos h5]
    exact bootloaderNack h5
  rw [if_neg h5]
  by_cases h6 : op = c.opcCommonAck
  · rw [if_pos h6]
    exact commonAck h6
  rw [if_neg h6]
  by_cases h7 : op = c.opcCommonAscii
  · rw [if_pos h7]
    exact commonAscii h7
  rw [if_neg h7]
  by_cases h8 : op = c.opcReboot
  · rw [if_pos h8]
    exact reboot h8
  rw [if_neg h8]
  by_cases h9 : op = c.opcGetTime
  · rw [if_pos h9]
    exact getTime h9
  rw [if_neg h9]
  by_cases h10 : op = c.opcSetTime
  · rw [if_pos h10]
    exact setTime h10
  rw [if_neg h10]
  by_cases h11 : op = c.opcDataRecord
  · rw [if_pos h11]
    exact dataRecord h11
  rw [if_neg h11]
  by_cases h12 : op = c.opcGetTelemetry
  · rw [if_pos h12]
    exact getTelemetry h12
  rw [if_neg h12]
  by_cases h13 : op = c.opcTelemetryReport
  · rw [if_pos h13]
    exact telemetryReport h13
  rw [if_neg h13]
  by_cases h14 : op = c.opcCommonNack
  · rw [if_pos h14]
    exact commonNack h14
  rw [if_neg h14]
  apply unrecognized
  simp only [Cfg.opcodes, List.mem_cons, List.not_mem_nil, not_or, or_false]
  exact ⟨h0, h1, h2, h3, h4, h5, h6, h7, h8, h9, h10, h11, h12, h13, h14⟩

end Sys2Proof
end

