-- ==== Sys2Proof/Laws/State.lean ====
section
/-! SUPPORT. One lemma for each field of each state update, true by `rfl`, so that no proof unfolds a
record update. -/

namespace Sys2Proof.Machine

/-! `emit` -/

@[simp] theorem emit_cfg (o : Output) (s : State) : (emit o s).cfg = s.cfg := rfl
@[simp] theorem emit_rxState (o : Output) (s : State) : (emit o s).rxState = s.rxState := rfl
@[simp] theorem emit_rxCnt (o : Output) (s : State) : (emit o s).rxCnt = s.rxCnt := rfl
@[simp] theorem emit_rx (o : Output) (s : State) : (emit o s).rx = s.rx := rfl
@[simp] theorem emit_cmd (o : Output) (s : State) : (emit o s).cmd = s.cmd := rfl
@[simp] theorem emit_cmdValid (o : Output) (s : State) : (emit o s).cmdValid = s.cmdValid := rfl
@[simp] theorem emit_rpl (o : Output) (s : State) : (emit o s).rpl = s.rpl := rfl
@[simp] theorem emit_rplEmpty (o : Output) (s : State) : (emit o s).rplEmpty = s.rplEmpty := rfl
@[simp] theorem emit_host (o : Output) (s : State) : (emit o s).host = s.host := rfl
@[simp] theorem emit_outputs (o : Output) (s : State) : (emit o s).outputs = o :: s.outputs := rfl

/-! `discard` -/

@[simp] theorem discard_cfg (s : State) : (discard s).cfg = s.cfg := rfl
@[simp] theorem discard_rxState (s : State) : (discard s).rxState = .awaitStart0 := rfl
@[simp] theorem discard_rxCnt (s : State) : (discard s).rxCnt = 0 := rfl
@[simp] theorem discard_rx (s : State) : (discard s).rx = [] := rfl
@[simp] theorem discard_cmd (s : State) : (discard s).cmd = s.cmd := rfl
@[simp] theorem discard_cmdValid (s : State) : (discard s).cmdValid = s.cmdValid := rfl
@[simp] theorem discard_rpl (s : State) : (discard s).rpl = s.rpl := rfl
@[simp] theorem discard_rplEmpty (s : State) : (discard s).rplEmpty = s.rplEmpty := rfl
@[simp] theorem discard_host (s : State) : (discard s).host = s.host := rfl
@[simp] theorem discard_outputs (s : State) : (discard s).outputs = s.outputs := rfl

/-! `storeRx` -/

@[simp] theorem storeRx_cfg (off : Nat) (b : Byte) (n : RxState) (s : State) : (storeRx off b n s).cfg = s.cfg := rfl
@[simp] theorem storeRx_rxState (off : Nat) (b : Byte) (n : RxState) (s : State) : (storeRx off b n s).rxState = n := rfl
@[simp] theorem storeRx_rxCnt (off : Nat) (b : Byte) (n : RxState) (s : State) : (storeRx off b n s).rxCnt = s.rxCnt := rfl
@[simp] theorem storeRx_rx (off : Nat) (b : Byte) (n : RxState) (s : State) : (storeRx off b n s).rx = bufWrite s.rx off b := rfl
@[simp] theorem storeRx_cmd (off : Nat) (b : Byte) (n : RxState) (s : State) : (storeRx off b n s).cmd = s.cmd := rfl
@[simp] theorem storeRx_cmdValid (off : Nat) (b : Byte) (n : RxState) (s : State) : (storeRx off b n s).cmdValid = s.cmdValid := rfl
@[simp] theorem storeRx_rpl (off : Nat) (b : Byte) (n : RxState) (s : State) : (storeRx off b n s).rpl = s.rpl := rfl
@[simp] theorem storeRx_rplEmpty (off : Nat) (b : Byte) (n : RxState) (s : State) : (storeRx off b n s).rplEmpty = s.rplEmpty := rfl
@[simp] theorem storeRx_host (off : Nat) (b : Byte) (n : RxState) (s : State) : (storeRx off b n s).host = s.host := rfl
@[simp] theorem storeRx_outputs (off : Nat) (b : Byte) (n : RxState) (s : State) : (storeRx off b n s).outputs = s.outputs := rfl

/-! `setCnt` -/

@[simp] theorem setCnt_cfg (n : Nat) (s : State) : (setCnt n s).cfg = s.cfg := rfl
@[simp] theorem setCnt_rxState (n : Nat) (s : State) : (setCnt n s).rxState = s.rxState := rfl
@[simp] theorem setCnt_rxCnt (n : Nat) (s : State) : (setCnt n s).rxCnt = n := rfl
@[simp] theorem setCnt_rx (n : Nat) (s : State) : (setCnt n s).rx = s.rx := rfl
@[simp] theorem setCnt_cmd (n : Nat) (s : State) : (setCnt n s).cmd = s.cmd := rfl
@[simp] theorem setCnt_cmdValid (n : Nat) (s : State) : (setCnt n s).cmdValid = s.cmdValid := rfl
@[simp] theorem setCnt_rpl (n : Nat) (s : State) : (setCnt n s).rpl = s.rpl := rfl
@[simp] theorem setCnt_rplEmpty (n : Nat) (s : State) : (setCnt n s).rplEmpty = s.rplEmpty := rfl
@[simp] theorem setCnt_host (n : Nat) (s : State) : (setCnt n s).host = s.host := rfl
@[simp] theorem setCnt_outputs (n : Nat) (s : State) : (setCnt n s).outputs = s.outputs := rfl

/-! `loadCmd` -/

@[simp] theorem loadCmd_cfg (l : List Byte) (s : State) : (loadCmd l s).cfg = s.cfg := rfl
@[simp] theorem loadCmd_rxState (l : List Byte) (s : State) : (loadCmd l s).rxState = s.rxState := rfl
@[simp] theorem loadCmd_rxCnt (l : List Byte) (s : State) : (loadCmd l s).rxCnt = s.rxCnt := rfl
@[simp] theorem loadCmd_rx (l : List Byte) (s : State) : (loadCmd l s).rx = s.rx := rfl
@[simp] theorem loadCmd_cmd (l : List Byte) (s : State) : (loadCmd l s).cmd = bufWriteAll [] 0 l := rfl
@[simp] theorem loadCmd_cmdValid (l : List Byte) (s : State) : (loadCmd l s).cmdValid = true := rfl
@[simp] theorem loadCmd_rpl (l : List Byte) (s : State) : (loadCmd l s).rpl = s.rpl := rfl
@[simp] theorem loadCmd_rplEmpty (l : List Byte) (s : State) : (loadCmd l s).rplEmpty = s.rplEmpty := rfl
@[simp] theorem loadCmd_host (l : List Byte) (s : State) : (loadCmd l s).host = s.host := rfl
@[simp] theorem loadCmd_outputs (l : List Byte) (s : State) : (loadCmd l s).outputs = s.outputs := rfl

/-! `storeCmd` -/

@[simp] theorem storeCmd_cfg (off : Nat) (l : List Byte) (s : State) : (storeCmd off l s).cfg = s.cfg := rfl
@[simp] theorem storeCmd_rxState (off : Nat) (l : List Byte) (s : State) : (storeCmd off l s).rxState = s.rxState := rfl
@[simp] theorem storeCmd_rxCnt (off : Nat) (l : List Byte) (s : State) : (storeCmd off l s).rxCnt = s.rxCnt := rfl
@[simp] theorem storeCmd_rx (off : Nat) (l : List Byte) (s : State) : (storeCmd off l s).rx = s.rx := rfl
@[simp] theorem storeCmd_cmd (off : Nat) (l : List Byte) (s : State) : (storeCmd off l s).cmd = bufWriteAll s.cmd off l := rfl
@[simp] theorem storeCmd_cmdValid (off : Nat) (l : List Byte) (s : State) : (storeCmd off l s).cmdValid = s.cmdValid := rfl
@[simp] theorem storeCmd_rpl (off : Nat) (l : List Byte) (s : State) : (storeCmd off l s).rpl = s.rpl := rfl
@[simp] theorem storeCmd_rplEmpty (off : Nat) (l : List Byte) (s : State) : (storeCmd off l s).rplEmpty = s.rplEmpty := rfl
@[simp] theorem storeCmd_host (off : Nat) (l : List Byte) (s : State) : (storeCmd off l s).host = s.host := rfl
@[simp] theorem storeCmd_outputs (off : Nat) (l : List Byte) (s : State) : (storeCmd off l s).outputs = s.outputs := rfl

/-! `dropReply` -/

@[simp] theorem dropReply_cfg (s : State) : (dropReply s).cfg = s.cfg := rfl
@[simp] theorem dropReply_rxState (s : State) : (dropReply s).rxState = s.rxState := rfl
@[simp] theorem dropReply_rxCnt (s : State) : (dropReply s).rxCnt = s.rxCnt := rfl
@[simp] theorem dropReply_rx (s : State) : (dropReply s).rx = s.rx := rfl
@[simp] theorem dropReply_cmd (s : State) : (dropReply s).cmd = s.cmd := rfl
@[simp] theorem dropReply_cmdValid (s : State) : (dropReply s).cmdValid = s.cmdValid := rfl
@[simp] theorem dropReply_rpl (s : State) : (dropReply s).rpl = [] := rfl
@[simp] theorem dropReply_rplEmpty (s : State) : (dropReply s).rplEmpty = true := rfl
@[simp] theorem dropReply_host (s : State) : (dropReply s).host = s.host := rfl
@[simp] theorem dropReply_outputs (s : State) : (dropReply s).outputs = s.outputs := rfl

/-! `storePayload` -/

@[simp] theorem storePayload_cfg (l : List Byte) (s : State) :
    (storePayload l s).cfg = s.cfg := rfl
@[simp] theorem storePayload_rxState (l : List Byte) (s : State) :
    (storePayload l s).rxState = s.rxState := rfl
@[simp] theorem storePayload_rxCnt (l : List Byte) (s : State) :
    (storePayload l s).rxCnt = s.rxCnt := rfl
@[simp] theorem storePayload_rx (l : List Byte) (s : State) :
    (storePayload l s).rx = s.rx := rfl
@[simp] theorem storePayload_cmd (l : List Byte) (s : State) :
    (storePayload l s).cmd = bufWriteAll (bufWriteAll s.cmd offPld l) offLen [lenByte l.length] := rfl
@[simp] theorem storePayload_cmdValid (l : List Byte) (s : State) :
    (storePayload l s).cmdValid = s.cmdValid := rfl
@[simp] theorem storePayload_rpl (l : List Byte) (s : State) :
    (storePayload l s).rpl = s.rpl := rfl
@[simp] theorem storePayload_rplEmpty (l : List Byte) (s : State) :
    (storePayload l s).rplEmpty = s.rplEmpty := rfl
@[simp] theorem storePayload_host (l : List Byte) (s : State) :
    (storePayload l s).host = s.host := rfl
@[simp] theorem storePayload_outputs (l : List Byte) (s : State) :
    (storePayload l s).outputs = s.outputs := rfl

/-! `presentRequest` -/

@[simp] theorem presentRequest_cfg (l : List Byte) (s : State) :
    (presentRequest l s).cfg = s.cfg := rfl
@[simp] theorem presentRequest_rxState (l : List Byte) (s : State) :
    (presentRequest l s).rxState = .complete := rfl
@[simp] theorem presentRequest_rxCnt (l : List Byte) (s : State) :
    (presentRequest l s).rxCnt = l.length - (hdrCounted + overhead) := rfl
@[simp] theorem presentRequest_rx (l : List Byte) (s : State) :
    (presentRequest l s).rx = bufWriteAll [] 0 l := rfl
@[simp] theorem presentRequest_cmd (l : List Byte) (s : State) :
    (presentRequest l s).cmd = s.cmd := rfl
@[simp] theorem presentRequest_cmdValid (l : List Byte) (s : State) :
    (presentRequest l s).cmdValid = s.cmdValid := rfl
@[simp] theorem presentRequest_rpl (l : List Byte) (s : State) :
    (presentRequest l s).rpl = [] := rfl
@[simp] theorem presentRequest_rplEmpty (l : List Byte) (s : State) :
    (presentRequest l s).rplEmpty = true := rfl
@[simp] theorem presentRequest_host (l : List Byte) (s : State) :
    (presentRequest l s).host = .replyGen DeviceState.zero :: s.host := rfl
@[simp] theorem presentRequest_outputs (l : List Byte) (s : State) :
    (presentRequest l s).outputs = s.outputs := rfl

/-! `bounce` -/

@[simp] theorem bounce_hwid (q : Request) (p : List Byte) : (bounce q p).hwid = q.hwid := rfl
@[simp] theorem bounce_msgid (q : Request) (p : List Byte) : (bounce q p).msgid = q.msgid := rfl
@[simp] theorem bounce_src (q : Request) (p : List Byte) : (bounce q p).src = q.dst := rfl
@[simp] theorem bounce_dst (q : Request) (p : List Byte) : (bounce q p).dst = q.src := rfl
@[simp] theorem bounce_payload (q : Request) (p : List Byte) : (bounce q p).payload = p := rfl

end Sys2Proof.Machine
end

