-- ==== Sys2Proof/Laws/Ops.lean ====
section
/-! SUPPORT. For each shared operation, what it can do, said once. -/

namespace Sys2Proof.Machine

@[simp] theorem done_eq (o : Output) (s : State) : done o s = .next (emit o s) := rfl

theorem done_emits {o : Output} {s t : State} (h : done o s = .next t) :
    SameFd s t ∧ SameCe s t ∧ SameRd s t ∧ Emits o s t := by
  cases h
  exact ⟨⟨rfl, rfl, rfl⟩, ⟨rfl, rfl⟩, ⟨rfl, rfl⟩, rfl, rfl, rfl⟩

/-! ### The encoder -/

theorem setter_applies {s : State} {op : Byte} (a : Outcome) (h : HoldsCommand s op) :
    setter op a s = a := by
  simp [setter, h.1, h.2]

theorem setter_other {s : State} {op : Byte} (a : Outcome) (h : HoldsOtherCommand s op) :
    setter op a s = .next (emit .nothing s) := by
  rcases h with h | ⟨held, h, hne⟩
  · simp [setter, h]
  · by_cases hv : s.cmdValid = true
    · simp [setter, hv, h, hne]
    · simp [setter, hv]

/-- A setter applies, or is a silent no-op. -/
theorem setter_next {s t : State} {op : Byte} {a : Outcome} (h : setter op a s = .next t) :
    (HoldsCommand s op ∧ a = .next t) ∨ (HoldsOtherCommand s op ∧ t = emit .nothing s) := by
  unfold setter at h
  split at h
  · rename_i hv
    split at h
    · cases h
    · rename_i held hh
      split at h
      · rename_i e
        exact .inl ⟨⟨hv, e ▸ hh⟩, h⟩
      · rename_i e
        cases h
        exact .inr ⟨.inr ⟨held, hh, e⟩, rfl⟩
  · rename_i hv
    cases h
    exact .inr ⟨.inl (by simpa using hv), rfl⟩

theorem storePayload_stands (l : List Byte) (s : State) :
    Stands (storePayload l s).cmd offPld l := by
  intro k hk
  rw [storePayload_cmd, bufRead_bufWriteAll, if_neg (by simp only [offPld, offLen, List.length_singleton]; omega)]
  exact stands_bufWriteAll _ _ _ k hk

theorem storePayload_len (l : List Byte) (s : State) :
    bufRead (storePayload l s).cmd offLen = some (lenByte l.length) := by
  simp [bufRead_bufWriteAll]

theorem storePayload_outside (l : List Byte) (s : State) (a : Nat) (h2 : a ≠ offLen)
    (h : a < offPld ∨ offPld + l.length ≤ a) :
    bufRead (storePayload l s).cmd a = bufRead s.cmd a := by
  rw [storePayload_cmd, bufRead_bufWriteAll, if_neg (by simp; omega)]
  exact sameOutside_bufWriteAll _ _ _ a h

/-- A setter whose payload is `l` sets exactly that payload. -/
theorem setsPayload_of_exec {i : Instr} {l : List Byte} {s : State}
    (h : exec i s = .next (emit .nothing (storePayload l s))) :
    SetsPayload i l (lenByte l.length) s :=
  ⟨_, h, storePayload_stands l s, storePayload_len l s, storePayload_outside l s, rfl,
    ⟨rfl, rfl, rfl⟩, ⟨rfl, rfl⟩, rfl, rfl, rfl⟩

theorem ignored_of_exec {i : Instr} {s : State} (h : exec i s = .next (emit .nothing s)) :
    Ignored i s :=
  ⟨_, h, ⟨rfl, rfl, rfl⟩, ⟨rfl, rfl⟩, ⟨rfl, rfl⟩, rfl, rfl, rfl⟩

/-- The command frame stands whole, and no byte beyond it holds a value. -/
theorem loadCmd_stands (l : List Byte) (s : State) : Stands (loadCmd l s).cmd 0 l :=
  stands_bufWriteAll [] 0 l

theorem loadCmd_beyond (l : List Byte) (s : State) (a : Nat) (h : l.length ≤ a) :
    bufRead (loadCmd l s).cmd a = none := by
  rw [loadCmd_cmd, bufRead_bufWriteAll, if_neg (by omega), bufRead_nil]

/-- The elements of a data record, two bytes each (30_encoding.md R94). -/
theorem dataPayload_length (m : Bool) (l : List U16) : (dataPayload m l).length = 2 * l.length := by
  induction l with
  | nil => rfl
  | cons v l ih =>
    rw [show dataPayload m (v :: l) = dataElement m v ++ dataPayload m l from rfl,
      List.length_append, ih]
    cases m <;> simp [dataElement] <;> omega

/-! ### The reply demultiplexer -/

theorem invoke_ready {s : State} (a : Outcome) (h1 : s.rxState = .complete)
    (h2 : s.rplEmpty = true) : invoke a s = a := by
  simp [invoke, h1, h2]

theorem invoke_notReady {s : State} (a : Outcome) (h : s.rxState ≠ .complete ∨ s.rplEmpty = false) :
    invoke a s = .next (emit (.reply .notInvoked) s) := by
  rcases h with h | h <;> simp [invoke, h]

/-- Outside the precondition nothing happens; inside it the request is answered. -/
theorem invoke_next {s t : State} {a : Outcome} (h : invoke a s = .next t) :
    (s.rxState = .complete ∧ s.rplEmpty = true ∧ a = .next t) ∨
      ((s.rxState ≠ .complete ∨ s.rplEmpty = false) ∧ t = emit (.reply .notInvoked) s) := by
  unfold invoke at h
  split at h
  · rename_i hc
    exact .inl ⟨hc.1, hc.2, h⟩
  · rename_i hc
    cases h
    refine .inr ⟨?_, rfl⟩
    by_cases h1 : s.rxState = .complete
    · exact .inr (by simpa [h1] using hc)
    · exact .inl h1

/-- The state `reply(op, P)` leaves. -/
theorem reply_eq (op : Byte) (p : List Byte) (q : Request) (s : State) :
    reply op p q s = .next (emit (.reply .replied)
      { s with rpl := bufWriteAll s.rpl 0 (frameOf s.cfg op (bounce q p)), rplEmpty := false }) := rfl

/-- What `reply(op, P)` does, byte by byte (42_reply_demux.md R193). -/
theorem reply_replied (op : Byte) (p : List Byte) (q : Request) (s : State) :
    ∃ t, reply op p q s = .next t ∧ Replied op p q s t := by
  refine ⟨_, reply_eq op p q s, ?_⟩
  have hr : ∀ a, a < offPld + p.length →
      bufRead (bufWriteAll s.rpl 0 (frameOf s.cfg op (bounce q p))) a
        = (frameOf s.cfg op (bounce q p))[a]? := by
    intro a ha
    rw [bufRead_bufWriteAll, if_pos (by simpa using ha), Nat.sub_zero]
  have hp : ∀ a, a < offPld → bufRead (bufWriteAll s.rpl 0 (frameOf s.cfg op (bounce q p))) a
      = (frameOf s.cfg op (bounce q p))[a]? := fun a ha => hr a (by omega)
  exact {
    marked := ⟨(hp _ (by decide)).trans (by simp [frameOf_eq]),
      (hp _ (by decide)).trans (by simp [frameOf_eq])⟩
    len := (hp _ (by decide)).trans (by simp [frameOf_eq, lenByte])
    hwidLow := (hp _ (by decide)).trans (by simp [frameOf_eq])
    hwidHigh := (hp _ (by decide)).trans (by simp [frameOf_eq])
    msgidLow := (hp _ (by decide)).trans (by simp [frameOf_eq])
    msgidHigh := (hp _ (by decide)).trans (by simp [frameOf_eq])
    addr := (hp _ (by decide)).trans (by simp [frameOf_eq, swap4])
    opcode := (hp _ (by decide)).trans (by simp [frameOf_eq])
    body := by
      intro k hk
      have : bufRead (bufWriteAll s.rpl 0 (frameOf s.cfg op (bounce q p))) (offPld + k) = p[k]? := by
        rw [hr _ (by omega), frameOf_eq]
        rw [show offPld + k = k + 9 by simp [offPld]; omega]
        simp
      simpa using this
    outside := by
      intro a ha
      have := sameOutside_bufWriteAll s.rpl 0 (frameOf s.cfg op (bounce q p)) a (by simpa using ha)
      simpa using this
    pending := rfl
    decoder := ⟨rfl, rfl, rfl⟩
    encoder := ⟨rfl, rfl⟩
    output := ⟨rfl, rfl, rfl⟩ }

/-- In boot mode bootloader-ack with the byte, out of it common-nack. -/
theorem replyInBootMode_cases (r : Byte) (q : Request) (d : DeviceState) (s : State) :
    (d.bootMode = true ∧ replyInBootMode r q d s = reply s.cfg.opcBootloaderAck [r] q s) ∨
      (d.bootMode = false ∧ replyInBootMode r q d s = reply s.cfg.opcCommonNack [] q s) := by
  cases h : d.bootMode
  · exact .inr ⟨rfl, by simp [replyInBootMode, h, replyNack]⟩
  · exact .inl ⟨rfl, by simp [replyInBootMode, h]⟩

/-- An unrecognized request gets no reply or common-nack, by policy. -/
theorem unrecognizedReply_cases (q : Request) (s : State) :
    (s.cfg.unrecognizedPolicy = .noReply ∧
        unrecognizedReply q s = .next (emit (.reply .noReply) s)) ∨
      (s.cfg.unrecognizedPolicy = .nack ∧
        unrecognizedReply q s = reply s.cfg.opcCommonNack [] q s) := by
  cases h : s.cfg.unrecognizedPolicy
  · exact .inl ⟨rfl, by simp [unrecognizedReply, h]⟩
  · exact .inr ⟨rfl, by simp [unrecognizedReply, h, replyNack]⟩

/-- The dispatch of `REPLY_GEN` runs the request instruction itself. -/
theorem answer_eq_exec {i : Instr} (s : State) (h : i.isOperation = false) :
    answer i s = exec i s := by
  cases i <;> first | rfl | cases h

/-! ### Memory at reset -/

/-- After reset the three buffers have the canonical form. -/
theorem memoryWf_reset : Memory.wf State.reset = true := rfl

theorem memoryWf_iff {s : State} : Memory.wf s = true ↔
    bufferWf s.rx = true ∧ bufferWf s.cmd = true ∧ bufferWf s.rpl = true := by
  simp [Memory.wf, and_assoc]

/-! ### Runs -/

/-- A run that begins with a step. -/
theorem run_succ_of_next (M : Host.Core) {k : Nat} {s t : M.State} (h : M.step s = .next t) :
    M.run (k + 1) s = M.run k t := by
  rw [Host.Core.run, h]

/-! ### Fetch -/

theorem fetch_cons {s : State} {i : Instr} {rest : List Instr} (h : s.host = i :: rest) :
    fetch s = some (i, { s with host := rest }) := by
  simp [fetch, h]

theorem fetch_nil {s : State} (h : s.host = []) : fetch s = none := by
  simp [fetch, h]

/-- What a step can do: nothing, or the next operation. -/
theorem step_next {s t : State} (h : step s = .next t) :
    (s.host = [] ∧ t = s) ∨ ∃ i rest, s.host = i :: rest ∧ i.isOperation = true ∧
      exec i { s with host := rest } = .next t := by
  unfold step at h
  cases hh : s.host with
  | nil =>
    rw [fetch_nil hh] at h
    cases h
    exact .inl ⟨rfl, rfl⟩
  | cons i rest =>
    rw [fetch_cons hh] at h
    simp only at h
    split at h
    · rename_i hi
      exact .inr ⟨i, rest, rfl, hi, h⟩
    · cases h

end Sys2Proof.Machine
end

