-- ==== Sys2Proof/Laws/PerInstr.lean ====
section
/-! SUPPORT. A family of statements about each instruction as syntax: the length of its encoding
(30_encoding.md R81a). Operations have no encoding (R103), so nothing is said of them. -/

namespace Sys2Proof.Laws.EncodedLength

/-- The encoding has 9 to 258 bytes, three more than its length byte says. -/
def Statement (i : Instr) : Prop :=
  ∀ (c : Cfg) (bytes : List Byte), i.wellFormed c = true → encode c i = some bytes →
    9 ≤ bytes.length ∧ bytes.length ≤ frameMax ∧
      ∃ len, bytes[offLen]? = some len ∧ bytes.length = len.toNat + overhead

theorem frameOf_lengths (c : Cfg) (op : Byte) (q : Request) (h : q.wellFormed = true) :
    9 ≤ (frameOf c op q).length ∧ (frameOf c op q).length ≤ frameMax ∧
      ∃ len, (frameOf c op q)[offLen]? = some len ∧
        (frameOf c op q).length = len.toNat + overhead := by
  have hq : q.payload.length ≤ pldMax := by simpa [Request.wellFormed] using h
  refine ⟨?_, ?_, lenByte q.payload.length, by simp [frameOf_eq], ?_⟩ <;>
    simp only [frameOf_length, lenByte_toNat hq, offPld, frameMax, pldMax, hdrCounted, overhead] at * <;>
    omega

theorem bootloaderPing (q : Request) (d : DeviceState) : Statement (.bootloaderPing q d) := by
  rintro c _ h ⟨rfl⟩
  exact frameOf_lengths c _ q h

theorem bootloaderAck (q : Request) (d : DeviceState) : Statement (.bootloaderAck q d) := by
  rintro c _ h ⟨rfl⟩
  exact frameOf_lengths c _ q h

theorem bootloaderWritePage (q : Request) (d : DeviceState) : Statement (.bootloaderWritePage q d) := by
  rintro c _ h ⟨rfl⟩
  exact frameOf_lengths c _ q h

theorem bootloaderJump (q : Request) (d : DeviceState) : Statement (.bootloaderJump q d) := by
  rintro c _ h ⟨rfl⟩
  exact frameOf_lengths c _ q h

theorem bootloaderErase (q : Request) (d : DeviceState) : Statement (.bootloaderErase q d) := by
  rintro c _ h ⟨rfl⟩
  exact frameOf_lengths c _ q h

theorem bootloaderNack (q : Request) (d : DeviceState) : Statement (.bootloaderNack q d) := by
  rintro c _ h ⟨rfl⟩
  exact frameOf_lengths c _ q h

theorem commonAck (q : Request) (d : DeviceState) : Statement (.commonAck q d) := by
  rintro c _ h ⟨rfl⟩
  exact frameOf_lengths c _ q h

theorem commonAscii (q : Request) (d : DeviceState) : Statement (.commonAscii q d) := by
  rintro c _ h ⟨rfl⟩
  exact frameOf_lengths c _ q h

theorem reboot (q : Request) (d : DeviceState) : Statement (.reboot q d) := by
  rintro c _ h ⟨rfl⟩
  exact frameOf_lengths c _ q h

theorem getTime (q : Request) (d : DeviceState) : Statement (.getTime q d) := by
  rintro c _ h ⟨rfl⟩
  exact frameOf_lengths c _ q h

theorem setTime (q : Request) (d : DeviceState) : Statement (.setTime q d) := by
  rintro c _ h ⟨rfl⟩
  exact frameOf_lengths c _ q h

theorem dataRecord (q : Request) (d : DeviceState) : Statement (.dataRecord q d) := by
  rintro c _ h ⟨rfl⟩
  exact frameOf_lengths c _ q h

theorem getTelemetry (q : Request) (d : DeviceState) : Statement (.getTelemetry q d) := by
  rintro c _ h ⟨rfl⟩
  exact frameOf_lengths c _ q h

theorem telemetryReport (q : Request) (d : DeviceState) : Statement (.telemetryReport q d) := by
  rintro c _ h ⟨rfl⟩
  exact frameOf_lengths c _ q h

theorem commonNack (q : Request) (d : DeviceState) : Statement (.commonNack q d) := by
  rintro c _ h ⟨rfl⟩
  exact frameOf_lengths c _ q h

theorem unrecognized (op : Byte) (q : Request) (d : DeviceState) :
    Statement (.unrecognized op q d) := by
  rintro c _ h ⟨rfl⟩
  simp only [Instr.wellFormed, Bool.and_eq_true] at h
  exact frameOf_lengths c _ q h.1

theorem reset : Statement .reset := by
  intro c bytes _ h
  cases h

theorem status : Statement .status := by
  intro c bytes _ h
  cases h

theorem rxByte (b : Byte) : Statement (.rxByte b) := by
  intro c bytes _ h
  cases h

theorem rxRead : Statement .rxRead := by
  intro c bytes _ h
  cases h

theorem rxClear : Statement .rxClear := by
  intro c bytes _ h
  cases h

theorem txNew (opcode : Byte) (hwid msgid : U16) (src dst : U4) : Statement (.txNew opcode hwid msgid src dst) := by
  intro c bytes _ h
  cases h

theorem txSetDelay (delay : U32) : Statement (.txSetDelay delay) := by
  intro c bytes _ h
  cases h

theorem txSetTime (sec nsec : U32) : Statement (.txSetTime sec nsec) := by
  intro c bytes _ h
  cases h

theorem txSetTelem (buf : List Byte) : Statement (.txSetTelem buf) := by
  intro c bytes _ h
  cases h

theorem txSetPage (page : Byte) (body : List Byte) : Statement (.txSetPage page body) := by
  intro c bytes _ h
  cases h

theorem txSetAscii (str : List Byte) : Statement (.txSetAscii str) := by
  intro c bytes _ h
  cases h

theorem txSetData (vals : List U16) : Statement (.txSetData vals) := by
  intro c bytes _ h
  cases h

theorem txSerialize : Statement .txSerialize := by
  intro c bytes _ h
  cases h

theorem replyGen (d : DeviceState) : Statement (.replyGen d) := by
  intro c bytes _ h
  cases h

theorem rplSerialize : Statement .rplSerialize := by
  intro c bytes _ h
  cases h

theorem rplClear : Statement .rplClear := by
  intro c bytes _ h
  cases h

end Sys2Proof.Laws.EncodedLength
end

