-- ==== Sys2Proof/Tests/Slice0.lean ====
section
/-! SUPPORT. Tests. The bytes fed and the bytes expected are those of spec/95_test_vectors.md (the vector's
name stands beside each), under `Cfg0`; none is the model's own answer. At the end a witness for the
hypotheses of each obligation. -/

namespace Sys2Proof.Tests

open Sys2Proof Sys2Proof.Machine

/-! ### Helpers -/

/-- Device state: boot mode, flash, time set, and the clock (100, 500000000). -/
def device (boot flash time : Bool) : DeviceState :=
  { bootMode := boot, flashWriteOk := flash, timeSet := time, nowSec := 100, nowNsec := 500000000 }

/-- The fields of the spec's requests: hardware id 0x1234, source 1, destination 2. -/
def ask (msgid : U16) (payload : List Byte) : Request :=
  { hwid := 0x1234, msgid := msgid, src := 1, dst := 2, payload := payload }

/-- A state in the middle of a reception. -/
def receiving (r : RxState) (cnt : Nat) (bytes : List Byte) : State :=
  { State.reset with rxState := r, rxCnt := cnt, rx := bufWriteAll [] 0 bytes }

/-- A state whose receive buffer holds a completed frame. -/
def received (bytes : List Byte) : State := receiving .complete (bytes.length - 9) bytes

/-- A state whose command buffer holds a frame. -/
def commanded (bytes : List Byte) : State :=
  { State.reset with cmd := bufWriteAll [] 0 bytes, cmdValid := true }

/-- A state with a pending reply. -/
def pending (bytes : List Byte) : State :=
  { State.reset with rpl := bufWriteAll [] 0 bytes, rplEmpty := false }

/-- The configuration with the policy `Nack` and elements least significant byte first. -/
def cfgNack : Cfg := { Cfg0 with unrecognizedPolicy := .nack, dataMsbFirst := false }

/-- What a next state holds in a field; none for a fault or a refusal. -/
def afterwards {α : Type} (f : State → α) : Outcome → Option α
  | .next t => some (f t)
  | .fault _ => none
  | .refused _ => none

/-- The command frame and the last output after one operation. -/
def command (i : Instr) (s : State) : Option (Option (List Byte)) :=
  afterwards (fun t => bufFrame t.cmd) (exec i s)

/-- The reply frame after one `REPLY_GEN` on a received frame. -/
def replyTo (bytes : List Byte) (d : DeviceState) : Option (Option (List Byte)) :=
  afterwards (fun t => bufFrame t.rpl) (exec (.replyGen d) (received bytes))

/-- Why an instruction is refused. -/
def refusal : Outcome → Option Refusal
  | .next _ => none
  | .fault _ => none
  | .refused r => some r

/-! ### Well-formedness: each check refuses an ill-formed term -/

theorem test_payload_of_249_wellFormed :
    (Instr.commonAscii (ask 5 (List.replicate 249 0x41#8)) .zero).wellFormed Cfg0 = true := by decide +kernel

theorem test_payload_of_250_refused :
    (Instr.commonAscii (ask 5 (List.replicate 250 0x41#8)) .zero).wellFormed Cfg0 = false := by decide +kernel

theorem test_unrecognized_payload_of_250_refused :
    (Instr.unrecognized 0x7e (ask 5 (List.replicate 250 0x41#8)) .zero).wellFormed Cfg0 = false := by decide +kernel

theorem test_unrecognized_with_named_opcode_refused :
    (Instr.unrecognized 0x12 (ask 5 []) .zero).wellFormed Cfg0 = false := by decide

/-! ### Decoding: words written out from 30_encoding.md R80 and R95 -/

/-- F1, bit by bit: markers 22 69, length 6, hardware id 0x1234 low byte first, message id 1, source 1
and destination 2, opcode 0. -/
theorem test_decode_bootloaderPing : decode Cfg0 .zero
    [0b00100010, 0b01101001, 0b00000110, 0b00110100, 0b00010010, 0b00000001, 0b00000000, 0b00010010,
      0b00000000] = .ok (.bootloaderPing (ask 1 []) .zero, []) := rfl

theorem test_decode_bootloaderAck : decode Cfg0 .zero
    [0x22, 0x69, 0x07, 0x34, 0x12, 0x0a, 0x00, 0x12, 0x01, 0x00]
      = .ok (.bootloaderAck (ask 0x0a [0x00]) .zero, []) := rfl

theorem test_decode_bootloaderWritePage : decode Cfg0 .zero
    [0x22, 0x69, 0x07, 0x34, 0x12, 0x04, 0x00, 0x12, 0x02, 0x05]
      = .ok (.bootloaderWritePage (ask 4 [0x05]) .zero, []) := rfl

theorem test_decode_bootloaderJump : decode Cfg0 .zero
    [0x22, 0x69, 0x06, 0x34, 0x12, 0x0c, 0x00, 0x12, 0x0b]
      = .ok (.bootloaderJump (ask 0x0c []) .zero, []) := rfl

theorem test_decode_bootloaderErase : decode Cfg0 .zero
    [0x22, 0x69, 0x06, 0x34, 0x12, 0x0b, 0x00, 0x12, 0x0c]
      = .ok (.bootloaderErase (ask 0x0b []) .zero, []) := rfl

theorem test_decode_bootloaderNack : decode Cfg0 .zero
    [0x22, 0x69, 0x06, 0x34, 0x12, 0x0d, 0x00, 0x12, 0x0f]
      = .ok (.bootloaderNack (ask 0x0d []) .zero, []) := rfl

theorem test_decode_commonAck : decode Cfg0 .zero
    [0x22, 0x69, 0x06, 0x34, 0x12, 0x0e, 0x00, 0x12, 0x10]
      = .ok (.commonAck (ask 0x0e []) .zero, []) := rfl

/-- Source and destination 10 and 5, ids 0xbeef and 0xcafe (the header of section 4's address bounce),
and a byte after the frame left over. -/
theorem test_decode_commonAscii : decode Cfg0 .zero
    [0x22, 0x69, 0x08, 0xef, 0xbe, 0xfe, 0xca, 0xa5, 0x11, 0x68, 0x69, 0x22]
      = .ok (.commonAscii 
          { hwid := 0xbeef, msgid := 0xcafe, src := 10, dst := 5, payload := [0x68, 0x69] } .zero, [0x22]) := rfl

theorem test_decode_reboot : decode Cfg0 .zero
    [0x22, 0x69, 0x0a, 0x34, 0x12, 0x02, 0x00, 0x12, 0x12, 0xd0, 0x07, 0x00, 0x00]
      = .ok (.reboot (ask 2 [0xd0, 0x07, 0x00, 0x00]) .zero, []) := rfl

theorem test_decode_getTime : decode Cfg0 .zero
    [0x22, 0x69, 0x06, 0x34, 0x12, 0x08, 0x00, 0x12, 0x13]
      = .ok (.getTime (ask 8 []) .zero, []) := rfl

theorem test_decode_setTime : decode Cfg0 .zero
    [0x22, 0x69, 0x0e, 0x34, 0x12, 0x03, 0x00, 0x12, 0x14, 0x64, 0, 0, 0, 0x00, 0x65, 0xcd, 0x1d]
      = .ok (.setTime (ask 3 [0x64, 0, 0, 0, 0x00, 0x65, 0xcd, 0x1d]) .zero, []) := rfl

theorem test_decode_dataRecord : decode Cfg0 .zero
    [0x22, 0x69, 0x0a, 0x34, 0x12, 0x11, 0x00, 0x12, 0x16, 0x01, 0x02, 0xab, 0xcd]
      = .ok (.dataRecord (ask 0x11 [0x01, 0x02, 0xab, 0xcd]) .zero, []) := rfl

theorem test_decode_getTelemetry : decode Cfg0 .zero
    [0x22, 0x69, 0x06, 0x34, 0x12, 0x07, 0x00, 0x12, 0x17]
      = .ok (.getTelemetry (ask 7 []) .zero, []) := rfl

theorem test_decode_telemetryReport : decode Cfg0 .zero
    ([0x22, 0x69, 0x54, 0x34, 0x12, 0x09, 0x00, 0x12, 0x18] ++ List.replicate 78 0xaa#8)
      = .ok (.telemetryReport (ask 9 (List.replicate 78 0xaa#8)) .zero, []) := rfl

theorem test_decode_commonNack : decode Cfg0 .zero
    [0x22, 0x69, 0x06, 0x34, 0x12, 0x0f, 0x00, 0x12, 0xff]
      = .ok (.commonNack (ask 0x0f []) .zero, []) := rfl

theorem test_decode_unrecognized : decode Cfg0 .zero
    [0x22, 0x69, 0x08, 0x34, 0x12, 0x05, 0x00, 0x12, 0x7e, 0xaa, 0xbb]
      = .ok (.unrecognized 0x7e (ask 5 [0xaa, 0xbb]) .zero, []) := rfl

/-- R81c: length 5 is no frame. -/
theorem test_decode_short_length_refused : decode Cfg0 .zero
    [0x22, 0x69, 0x05, 0x34, 0x12, 0x01, 0x00, 0x12, 0x00] = .error .badLength := rfl

theorem test_decode_bad_second_marker_refused : decode Cfg0 .zero
    [0x22, 0x22, 0x06, 0x34, 0x12, 0x01, 0x00, 0x12, 0x00] = .error .badStartB := rfl

/-- R103: an operation has no encoding. -/
theorem test_operation_has_no_encoding : encode Cfg0 (.rxByte 0x22) = none := rfl

/-- The encoder writes F3's bytes. -/
theorem test_encode_reboot : encode Cfg0 (.reboot (ask 2 [0xd0, 0x07, 0x00, 0x00]) .zero)
    = some [0x22, 0x69, 0x0a, 0x34, 0x12, 0x02, 0x00, 0x12, 0x12, 0xd0, 0x07, 0x00, 0x00] := rfl

/-- A table word runs as the first instruction after reset. -/
theorem test_withFetchWord_runs :
    afterwards (fun t => t.outputs) (step (State.reset.withFetchWord 8 0x10))
      = some [.reply .replied] := by decide

/-! ### The request frames: one `REPLY_GEN` each -/

/-- Q1. -/
theorem test_bootloaderPing_in_boot_mode :
    replyTo [0x22, 0x69, 0x06, 0x34, 0x12, 0x01, 0x00, 0x12, 0x00] (device true false false)
      = some (some [0x22, 0x69, 0x07, 0x34, 0x12, 0x01, 0x00, 0x21, 0x01, 0x00]) := by decide

/-- Q2. -/
theorem test_bootloaderPing_out_of_boot_mode :
    replyTo [0x22, 0x69, 0x06, 0x34, 0x12, 0x01, 0x00, 0x12, 0x00] (device false false false)
      = some (some [0x22, 0x69, 0x06, 0x34, 0x12, 0x01, 0x00, 0x21, 0xff]) := by decide

/-- Q18. -/
theorem test_bootloaderAck :
    replyTo [0x22, 0x69, 0x07, 0x34, 0x12, 0x0a, 0x00, 0x12, 0x01, 0x00] (device true true true)
      = some (some [0x22, 0x69, 0x06, 0x34, 0x12, 0x0a, 0x00, 0x21, 0xff]) := by decide

/-- Q19. -/
theorem test_bootloaderWritePage_echo :
    replyTo [0x22, 0x69, 0x07, 0x34, 0x12, 0x04, 0x00, 0x12, 0x02, 0x05] (device true true false)
      = some (some [0x22, 0x69, 0x07, 0x34, 0x12, 0x04, 0x00, 0x21, 0x01, 0x05]) := by decide

/-- Q20. -/
theorem test_bootloaderWritePage_flash_failed :
    replyTo [0x22, 0x69, 0x07, 0x34, 0x12, 0x04, 0x00, 0x12, 0x02, 0x05] (device true false false)
      = some (some [0x22, 0x69, 0x06, 0x34, 0x12, 0x04, 0x00, 0x21, 0x0f]) := by decide

/-- Q4. -/
theorem test_bootloaderJump :
    replyTo [0x22, 0x69, 0x06, 0x34, 0x12, 0x0c, 0x00, 0x12, 0x0b] (device true false false)
      = some (some [0x22, 0x69, 0x07, 0x34, 0x12, 0x0c, 0x00, 0x21, 0x01, 0xff]) := by decide

/-- Q5. -/
theorem test_bootloaderErase_in_boot_mode :
    replyTo [0x22, 0x69, 0x06, 0x34, 0x12, 0x0b, 0x00, 0x12, 0x0c] (device true false false)
      = some (some [0x22, 0x69, 0x07, 0x34, 0x12, 0x0b, 0x00, 0x21, 0x01, 0x01]) := by decide

/-- Q6. -/
theorem test_bootloaderErase_out_of_boot_mode :
    replyTo [0x22, 0x69, 0x06, 0x34, 0x12, 0x0b, 0x00, 0x12, 0x0c] (device false true true)
      = some (some [0x22, 0x69, 0x06, 0x34, 0x12, 0x0b, 0x00, 0x21, 0xff]) := by decide

/-- Q26. -/
theorem test_bootloaderNack :
    replyTo [0x22, 0x69, 0x06, 0x34, 0x12, 0x0d, 0x00, 0x12, 0x0f] (device true true true)
      = some (some [0x22, 0x69, 0x06, 0x34, 0x12, 0x0d, 0x00, 0x21, 0xff]) := by decide

/-- Q27. -/
theorem test_commonAck :
    replyTo [0x22, 0x69, 0x06, 0x34, 0x12, 0x0e, 0x00, 0x12, 0x10] (device false false false)
      = some (some [0x22, 0x69, 0x06, 0x34, 0x12, 0x0e, 0x00, 0x21, 0x10]) := by decide

/-- Q28. -/
theorem test_commonAscii :
    replyTo [0x22, 0x69, 0x08, 0x34, 0x12, 0x05, 0x00, 0x12, 0x11, 0x68, 0x69] (device true true true)
      = some (some [0x22, 0x69, 0x06, 0x34, 0x12, 0x05, 0x00, 0x21, 0xff]) := by decide

/-- Q12 and Q13: 1000 is accepted and 1001 is not. -/
theorem test_reboot_threshold :
    replyTo [0x22, 0x69, 0x0a, 0x34, 0x12, 0x02, 0x00, 0x12, 0x12, 0xe8, 0x03, 0x00, 0x00]
        (device false false false)
      = some (some [0x22, 0x69, 0x06, 0x34, 0x12, 0x02, 0x00, 0x21, 0x10]) ∧
    replyTo [0x22, 0x69, 0x0a, 0x34, 0x12, 0x02, 0x00, 0x12, 0x12, 0xe9, 0x03, 0x00, 0x00]
        (device false false false)
      = some (some [0x22, 0x69, 0x06, 0x34, 0x12, 0x02, 0x00, 0x21, 0xff]) := by decide

/-- Q15. -/
theorem test_reboot_of_two_bytes_refused :
    refusal (exec (.replyGen (device true true true))
      (received [0x22, 0x69, 0x08, 0x34, 0x12, 0x02, 0x00, 0x12, 0x12, 0x01, 0x02]))
      = some .rebootPayloadLength := by decide

/-- Q8. -/
theorem test_getTime_set :
    replyTo [0x22, 0x69, 0x06, 0x34, 0x12, 0x08, 0x00, 0x12, 0x13] (device false false true)
      = some (some [0x22, 0x69, 0x0e, 0x34, 0x12, 0x08, 0x00, 0x21, 0x14, 0x64, 0x00, 0x00, 0x00, 0x00,
          0x65, 0xcd, 0x1d]) := by decide

/-- Q7. -/
theorem test_getTime_not_set :
    replyTo [0x22, 0x69, 0x06, 0x34, 0x12, 0x08, 0x00, 0x12, 0x13] (device true true false)
      = some (some [0x22, 0x69, 0x06, 0x34, 0x12, 0x08, 0x00, 0x21, 0xff]) := by decide

/-- Q16. -/
theorem test_setTime :
    replyTo [0x22, 0x69, 0x0e, 0x34, 0x12, 0x03, 0x00, 0x12, 0x14, 0x64, 0, 0, 0, 0x00, 0x65, 0xcd, 0x1d]
        (device false false false)
      = some (some [0x22, 0x69, 0x06, 0x34, 0x12, 0x03, 0x00, 0x21, 0x10]) := by decide

/-- Q32: no reply, and nothing stands in `RPL`. -/
theorem test_dataRecord_no_reply :
    afterwards (fun t => (t.rpl, t.rplEmpty, t.outputs)) (exec (.replyGen (device true true true))
      (received [0x22, 0x69, 0x0a, 0x34, 0x12, 0x11, 0x00, 0x12, 0x16, 0x01, 0x02, 0xab, 0xcd]))
      = some ([], true, [.reply .noReply]) := by decide

/-- Q3. -/
theorem test_getTelemetry :
    replyTo [0x22, 0x69, 0x06, 0x34, 0x12, 0x07, 0x00, 0x12, 0x17] (device false false false)
      = some (some ([0x22, 0x69, 0x54, 0x34, 0x12, 0x07, 0x00, 0x21, 0x18]
          ++ List.replicate 78 0x00#8)) := by decide +kernel

/-- Q17. -/
theorem test_telemetryReport :
    replyTo ([0x22, 0x69, 0x54, 0x34, 0x12, 0x09, 0x00, 0x12, 0x18] ++ List.replicate 78 0xaa#8)
        (device true true true)
      = some (some [0x22, 0x69, 0x06, 0x34, 0x12, 0x09, 0x00, 0x21, 0xff]) := by decide +kernel

/-- Q29. -/
theorem test_commonNack :
    replyTo [0x22, 0x69, 0x06, 0x34, 0x12, 0x0f, 0x00, 0x12, 0xff] (device true true true)
      = some (some [0x22, 0x69, 0x06, 0x34, 0x12, 0x0f, 0x00, 0x21, 0xff]) := by decide

/-- Q30. -/
theorem test_unrecognized_no_reply :
    afterwards (fun t => (t.rplEmpty, t.outputs)) (exec (.replyGen (device true true true))
      (received [0x22, 0x69, 0x06, 0x34, 0x12, 0x10, 0x00, 0x12, 0x7e]))
      = some (true, [.reply .noReply]) := by decide

/-- Q31. -/
theorem test_unrecognized_nack :
    afterwards (fun t => bufFrame t.rpl) (exec (.replyGen (device true true true))
      { received [0x22, 0x69, 0x06, 0x34, 0x12, 0x10, 0x00, 0x12, 0x7e] with cfg := cfgNack })
      = some (some [0x22, 0x69, 0x06, 0x34, 0x12, 0x10, 0x00, 0x21, 0xff]) := by decide

/-! ### The operations -/

/-- R270. -/
theorem test_reset : afterwards (fun t => (t.rxState, t.rpl, t.cmdValid, t.rplEmpty))
    (exec .reset (pending [0x22, 0x69])) = some (.awaitStart0, [], false, true) := by decide

/-- P1 line 5. -/
theorem test_status : afterwards (fun t => t.outputs)
    (exec .status { commanded [0x22] with rxState := .complete })
      = some [.status true false true] := by decide

/-- F1, its last byte: a frame without payload is complete at the opcode. -/
theorem test_rxByte_opcode_completes :
    afterwards (fun t => (t.rxState, bufFrame t.rx, t.outputs)) (exec (.rxByte 0x00)
      (receiving .opcode 0 [0x22, 0x69, 0x06, 0x34, 0x12, 0x01, 0x00, 0x12]))
      = some (.complete, some [0x22, 0x69, 0x06, 0x34, 0x12, 0x01, 0x00, 0x12, 0x00],
          [.consumed true]) := by decide

/-- F11: the second `SA` is consumed by the mismatch and not looked at again. -/
theorem test_rxByte_marker_not_reexamined :
    afterwards (fun t => (t.rxState, t.rx, t.outputs)) (exec (.rxByte 0x22)
      (receiving .awaitStart1 0 [0x22])) = some (.awaitStart0, [], [.consumed true]) := by decide

/-- F1. -/
theorem test_rxRead_complete : afterwards (fun t => t.outputs) (exec .rxRead
    (received [0x22, 0x69, 0x06, 0x34, 0x12, 0x01, 0x00, 0x12, 0x00]))
      = some [.read (some [0x22, 0x69, 0x06, 0x34, 0x12, 0x01, 0x00, 0x12, 0x00])] := by decide

/-- F2. -/
theorem test_rxRead_incomplete : afterwards (fun t => t.outputs) (exec .rxRead
    (receiving .opcode 0 [0x22, 0x69, 0x06, 0x34, 0x12, 0x01, 0x00, 0x12]))
      = some [.read none] := by decide

/-- F17. -/
theorem test_rxClear : afterwards (fun t => (t.rxState, t.rxCnt, t.rx)) (exec .rxClear
    (receiving .msgIdLsb 0 [0x22, 0x69, 0x06, 0x34, 0x12])) = some (.awaitStart0, 0, []) := by decide

/-- E1. -/
theorem test_txNew_ping : command (.txNew 0x00 0x1234 0x0001 1 2) State.reset
    = some (some [0x22, 0x69, 0x06, 0x34, 0x12, 0x01, 0x00, 0x12, 0x00]) := by decide

/-- E31: the new frame replaces E3's wholly. -/
theorem test_txNew_replaces : afterwards (fun t => (bufFrame t.cmd, bufRead t.cmd 9))
    (exec (.txNew 0x00 0x1234 0x0001 1 2)
      (commanded [0x22, 0x69, 0x0a, 0x34, 0x12, 0x02, 0x00, 0x12, 0x12, 0xd0, 0x07, 0x00, 0x00]))
    = some (some [0x22, 0x69, 0x06, 0x34, 0x12, 0x01, 0x00, 0x12, 0x00], none) := by decide

/-- E3. -/
theorem test_txSetDelay : command (.txSetDelay 2000)
    (commanded [0x22, 0x69, 0x06, 0x34, 0x12, 0x02, 0x00, 0x12, 0x12])
    = some (some [0x22, 0x69, 0x0a, 0x34, 0x12, 0x02, 0x00, 0x12, 0x12, 0xd0, 0x07, 0x00, 0x00]) := by
  decide

/-- E26. -/
theorem test_txSetDelay_other_class : command (.txSetDelay 5)
    (commanded [0x22, 0x69, 0x06, 0x34, 0x12, 0x01, 0x00, 0x12, 0x00])
    = some (some [0x22, 0x69, 0x06, 0x34, 0x12, 0x01, 0x00, 0x12, 0x00]) := by decide

/-- E7. -/
theorem test_txSetTime : command (.txSetTime 100 500000000)
    (commanded [0x22, 0x69, 0x0e, 0x34, 0x12, 0x03, 0x00, 0x12, 0x14, 0, 0, 0, 0, 0, 0, 0, 0])
    = some (some [0x22, 0x69, 0x0e, 0x34, 0x12, 0x03, 0x00, 0x12, 0x14, 0x64, 0x00, 0x00, 0x00, 0x00,
        0x65, 0xcd, 0x1d]) := by decide

/-- E9. -/
theorem test_txSetTelem : command (.txSetTelem (List.replicate 78 0xaa#8))
    (commanded ([0x22, 0x69, 0x54, 0x34, 0x12, 0x09, 0x00, 0x12, 0x18] ++ List.replicate 78 0x00#8))
    = some (some ([0x22, 0x69, 0x54, 0x34, 0x12, 0x09, 0x00, 0x12, 0x18]
        ++ List.replicate 78 0xaa#8)) := by decide +kernel

/-- E10. -/
theorem test_txSetTelem_of_77_ignored : command (.txSetTelem (List.replicate 77 0xaa#8))
    (commanded ([0x22, 0x69, 0x54, 0x34, 0x12, 0x09, 0x00, 0x12, 0x18] ++ List.replicate 78 0x00#8))
    = some (some ([0x22, 0x69, 0x54, 0x34, 0x12, 0x09, 0x00, 0x12, 0x18]
        ++ List.replicate 78 0x00#8)) := by decide +kernel

/-- E14. -/
theorem test_txSetPage_with_body : command (.txSetPage 5 (List.replicate 128 0x5a#8))
    (commanded [0x22, 0x69, 0x07, 0x34, 0x12, 0x04, 0x00, 0x12, 0x02, 0x00])
    = some (some ([0x22, 0x69, 0x87, 0x34, 0x12, 0x04, 0x00, 0x12, 0x02, 0x05]
        ++ List.replicate 128 0x5a#8)) := by decide +kernel

/-- E16: the old body and length stay. -/
theorem test_txSetPage_without_body : command (.txSetPage 6 [])
    (commanded ([0x22, 0x69, 0x87, 0x34, 0x12, 0x04, 0x00, 0x12, 0x02, 0x05]
      ++ List.replicate 128 0x5a#8))
    = some (some ([0x22, 0x69, 0x87, 0x34, 0x12, 0x04, 0x00, 0x12, 0x02, 0x06]
        ++ List.replicate 128 0x5a#8)) := by decide +kernel

/-- E17. -/
theorem test_txSetAscii : command (.txSetAscii [0x68, 0x69])
    (commanded [0x22, 0x69, 0x06, 0x34, 0x12, 0x05, 0x00, 0x12, 0x11])
    = some (some [0x22, 0x69, 0x08, 0x34, 0x12, 0x05, 0x00, 0x12, 0x11, 0x68, 0x69]) := by decide

/-- E18. -/
theorem test_txSetAscii_empty : command (.txSetAscii [])
    (commanded [0x22, 0x69, 0x08, 0x34, 0x12, 0x05, 0x00, 0x12, 0x11, 0x68, 0x69])
    = some (some [0x22, 0x69, 0x06, 0x34, 0x12, 0x05, 0x00, 0x12, 0x11]) := by decide

/-- E21. -/
theorem test_txSetData_msb_first : command (.txSetData [0x0102, 0xabcd])
    (commanded [0x22, 0x69, 0x06, 0x34, 0x12, 0x06, 0x00, 0x12, 0x16])
    = some (some [0x22, 0x69, 0x0a, 0x34, 0x12, 0x06, 0x00, 0x12, 0x16, 0x01, 0x02, 0xab, 0xcd]) := by
  decide

/-- E22. -/
theorem test_txSetData_lsb_first : command (.txSetData [0x0102, 0xabcd])
    { commanded [0x22, 0x69, 0x06, 0x34, 0x12, 0x06, 0x00, 0x12, 0x16] with cfg := cfgNack }
    = some (some [0x22, 0x69, 0x0a, 0x34, 0x12, 0x06, 0x00, 0x12, 0x16, 0x02, 0x01, 0xcd, 0xab]) := by
  decide

/-- E32. -/
theorem test_txSerialize : afterwards (fun t => t.outputs) (exec .txSerialize
    (commanded [0x22, 0x69, 0x06, 0x34, 0x12, 0x01, 0x00, 0x12, 0x00]))
    = some [.frame [0x22, 0x69, 0x06, 0x34, 0x12, 0x01, 0x00, 0x12, 0x00]] := by decide

/-- E29. -/
theorem test_txSerialize_before_txNew_refused :
    refusal (exec .txSerialize State.reset) = some .serializeBeforeNew := by decide

/-- Q34. -/
theorem test_replyGen_before_completion : afterwards (fun t => (t.rpl, t.outputs))
    (exec (.replyGen (device true true true)) State.reset)
    = some ([], [.reply .notInvoked]) := by decide

/-- Q35, on P5's states. -/
theorem test_replyGen_with_reply_pending : afterwards (fun t => (bufFrame t.rpl, t.outputs))
    (exec (.replyGen (device true true true))
      { pending [0x22, 0x69, 0x07, 0x34, 0x12, 0x01, 0x00, 0x21, 0x01, 0x00] with
        rxState := .complete })
    = some (some [0x22, 0x69, 0x07, 0x34, 0x12, 0x01, 0x00, 0x21, 0x01, 0x00],
        [.reply .notInvoked]) := by decide

/-- P1 line 9. -/
theorem test_rplSerialize : afterwards (fun t => (t.rplEmpty, t.outputs)) (exec .rplSerialize
    (pending [0x22, 0x69, 0x07, 0x34, 0x12, 0x01, 0x00, 0x21, 0x01, 0x00]))
    = some (false, [.frame [0x22, 0x69, 0x07, 0x34, 0x12, 0x01, 0x00, 0x21, 0x01, 0x00]]) := by
  decide

/-- P6 line 7. -/
theorem test_rplSerialize_nothing : afterwards (fun t => t.outputs) (exec .rplSerialize State.reset)
    = some [.frame []] := by decide

/-- P1 line 10. -/
theorem test_rplClear : afterwards (fun t => (t.rpl, t.rplEmpty)) (exec .rplClear
    (pending [0x22, 0x69, 0x07, 0x34, 0x12, 0x01, 0x00, 0x21, 0x01, 0x00]))
    = some ([], true) := by decide

/-! ### Witnesses: states and operands that meet the hypotheses of the obligations

`witness_<Name>` belongs to `Obligations.<Name>`; where the obligation has several clauses the witness
meets each, at a boundary value where there is one. An obligation without hypotheses has none here. -/

/-- A request or command frame with opcode `op`. -/
def frame (op : Byte) (payload : List Byte) : List Byte := frameOf Cfg0 op (ask 1 payload)

theorem cfg0_wellFormed : Cfg0.WellFormed := ⟨by decide, rfl, rfl, rfl, rfl⟩

/-- Section 4: `RX` holds the request. -/
theorem received_holds (op : Byte) (payload : List Byte) (h : payload.length ≤ 249) :
    HoldsRequest (received (frame op payload)) op (ask 1 payload) :=
  ⟨rfl, h, stands_bufWriteAll _ _ _⟩

/-- `CMD` holds the frame. -/
theorem commanded_holds (op : Byte) (payload : List Byte) :
    HoldsCommand (commanded (frame op payload)) op := by
  refine ⟨rfl, ?_⟩
  have h := stands_bufWriteAll [] 0 (frame op payload) 8 (by simp [frame, offPld]; omega)
  rw [Nat.zero_add] at h
  exact h.trans (by rw [frame, frameOf_eq]; rfl)

theorem reset_holds_other (op : Byte) : HoldsOtherCommand State.reset op := .inl rfl

/-- A ping's command frame is another than a frame of opcode `op`. -/
theorem ping_holds_other {op : Byte} (h : 0x00#8 ≠ op) :
    HoldsOtherCommand (commanded (frame 0x00 [])) op :=
  .inr ⟨0x00, (commanded_holds 0x00 []).2, h⟩

/-- The bytes written from offset 0 are a frame where their length says so. -/
theorem written_frameIn {bytes : List Byte} (len : Byte)
    (h : bufRead (bufWriteAll [] 0 bytes) offLen = some len)
    (hn : bytes.length = len.toNat + overhead) : FrameIn (bufWriteAll [] 0 bytes) bytes :=
  ⟨stands_bufWriteAll _ _ _, len, h, hn⟩

/-! States with the invariant. -/

theorem fdInv_idle {s : State} (h1 : s.rx = []) (h2 : s.rxState = .awaitStart0) (h3 : s.rxCnt = 0) :
    FdInv s := by
  refine ⟨?_, ?_, ?_, ?_, ?_, ?_, ?_⟩ <;> simp [h1, h2, h3, rxPrefix, rxOrder, HoldsPrefix]

theorem ceInv_empty {s : State} (h1 : s.cmd = []) (h2 : s.cmdValid = false) : CeInv s := by
  refine ⟨fun _ => h1, ?_, ?_⟩ <;> simp [h2]

theorem rdInv_empty {s : State} (h1 : s.rpl = []) (h2 : s.rplEmpty = true) : RdInv s := by
  refine ⟨fun _ => h1, ?_, ?_⟩ <;> simp [h2]

/-- A state whose decoder holds a completed frame. -/
theorem fdInv_complete {s : State} (len : Byte) (h1 : s.rxState = .complete)
    (hp : HoldsPrefix s.rx (len.toNat + overhead)) (hm : Marked s.cfg s.rx)
    (hl : bufRead s.rx offLen = some len) (h6 : lenMin ≤ len.toNat) (hc : s.rxCnt = pldLen len) :
    FdInv s := by
  refine ⟨?_, fun _ => hm.1, fun _ => hm.2, fun _ => ⟨len, hl, h6⟩, ?_, ?_, fun _ => ⟨len, hl, hc⟩⟩
  · simpa [rxPrefix, h1, hl] using hp
  · simp [h1]
  · simp [h1]

/-- The bytes of a ping and of its answer (P1). -/
def ping : List Byte := [0x22, 0x69, 0x06, 0x34, 0x12, 0x01, 0x00, 0x12, 0x00]
def pong : List Byte := [0x22, 0x69, 0x07, 0x34, 0x12, 0x01, 0x00, 0x21, 0x01, 0x00]

/-- P1 between lines 6 and 7: the ping is complete, the command frame stands, no reply is pending. -/
def asked : State := { received ping with cmd := bufWriteAll [] 0 ping, cmdValid := true }
/-- P1 after line 7: the reply is pending too. -/
def answered : State := { asked with rpl := bufWriteAll [] 0 pong, rplEmpty := false }
/-- P1 after line 8. -/
def cleared : State := { answered with rxState := .awaitStart0, rxCnt := 0, rx := [] }

theorem asked_fd : FdInv asked :=
  fdInv_complete 0x06 rfl (by decide) (by exact ⟨rfl, rfl⟩) rfl (by decide) rfl
theorem asked_ce : CeInv asked :=
  ⟨fun h => (by cases h), fun _ => ⟨rfl, rfl⟩,
    fun _ => ⟨9, 0x06, 0x00, by decide, by decide, rfl, rfl, by decide, rfl⟩⟩
theorem answered_rd : RdInv answered :=
  ⟨fun h => (by cases h), fun _ => ⟨rfl, rfl⟩, fun _ => ⟨0x07, rfl, by decide, by decide⟩⟩
theorem asked_inv : Inv asked := ⟨cfg0_wellFormed, asked_fd, asked_ce, rdInv_empty rfl rfl⟩
theorem answered_inv : Inv answered :=
  ⟨cfg0_wellFormed, ⟨asked_fd.held, asked_fd.startA, asked_fd.startB, asked_fd.len, asked_fd.idle,
    asked_fd.payload, asked_fd.complete⟩, ⟨asked_ce.invalid, asked_ce.marked, asked_ce.whole⟩,
    answered_rd⟩
theorem cleared_inv : Inv cleared :=
  ⟨cfg0_wellFormed, fdInv_idle rfl rfl rfl, ⟨asked_ce.invalid, asked_ce.marked, asked_ce.whole⟩,
    ⟨answered_rd.empty, answered_rd.marked, answered_rd.whole⟩⟩
theorem inv_host {s : State} (l : List Instr) (h : Inv s) : Inv { s with host := l } :=
  ⟨h.cfg, ⟨h.fd.held, h.fd.startA, h.fd.startB, h.fd.len, h.fd.idle, h.fd.payload, h.fd.complete⟩,
    ⟨h.ce.invalid, h.ce.marked, h.ce.whole⟩, ⟨h.rd.empty, h.rd.marked, h.rd.whole⟩⟩
theorem reset_inv : Inv State.reset :=
  ⟨cfg0_wellFormed, fdInv_idle rfl rfl rfl, ceInv_empty rfl rfl, rdInv_empty rfl rfl⟩

theorem ping_frameIn : FrameIn (bufWriteAll [] 0 ping) ping := written_frameIn 0x06 rfl rfl
theorem pong_frameIn : FrameIn (bufWriteAll [] 0 pong) pong := written_frameIn 0x07 rfl rfl

/-! Encoding and the step. -/

set_option maxRecDepth 4000 in
theorem witness_DecodeOfEncodeGivesTheRequestBack :
    Cfg0.WellFormed ∧
    (∃ bytes, (Instr.commonAscii (ask 5 (List.replicate 249 0x41#8)) .zero).wellFormed Cfg0 = true ∧
      (Instr.commonAscii (ask 5 (List.replicate 249 0x41#8)) .zero).request Cfg0
        = some (0x11, ask 5 (List.replicate 249 0x41#8), .zero) ∧
      encode Cfg0 (.commonAscii (ask 5 (List.replicate 249 0x41#8)) .zero) = some bytes) ∧
    ∃ bytes, (Instr.unrecognized 0x7e (ask 5 []) .zero).wellFormed Cfg0 = true ∧
      (Instr.unrecognized 0x7e (ask 5 []) .zero).request Cfg0 = some (0x7e, ask 5 [], .zero) ∧
      encode Cfg0 (.unrecognized 0x7e (ask 5 []) .zero) = some bytes :=
  ⟨cfg0_wellFormed, ⟨_, by decide, rfl, rfl⟩, ⟨_, by decide, rfl, rfl⟩⟩

theorem witness_EncodeOfDecodeGivesTheBytesBack :
    decode Cfg0 .zero (ping ++ [0x22]) = .ok (.bootloaderPing (ask 1 []) .zero, [0x22]) := rfl

set_option maxRecDepth 4000 in
/-- Lengths 5, 6 and 255. -/
theorem witness_FrameLengthLaws :
    (0x05#8).toNat < 6 ∧
    decode Cfg0 .zero ping = .ok (.bootloaderPing (ask 1 []) .zero, []) ∧
    ∃ r, decode Cfg0 .zero ([0x22, 0x69, 0xff, 0x34, 0x12, 0x05, 0x00, 0x12, 0x11]
      ++ List.replicate 249 0x41#8) = .ok r :=
  ⟨by decide, rfl, ⟨_, rfl⟩⟩

theorem witness_StepPerformsTheNextOperation :
    ({ asked with host := [.status] } : State).host = [.status] ∧ Instr.status.isOperation = true :=
  ⟨rfl, rfl⟩

theorem witness_StepRunsTheDecodedRequest :
    ({ asked with host := [.replyGen .zero] } : State).host = [.replyGen .zero] ∧
      asked.rxState = .complete ∧ asked.rplEmpty = true ∧ FrameIn asked.rx ping ∧
      decode asked.cfg .zero ping = .ok (.bootloaderPing (ask 1 []) .zero, []) :=
  ⟨rfl, rfl, rfl, ping_frameIn, rfl⟩

theorem witness_StepWithoutOperationChangesNothing : State.reset.host = [] := rfl

/-! The frame decoder. -/

theorem witness_AwaitStart0AcceptsOnlyTheFirstMarker :
    State.reset.rxState = .awaitStart0 ∧ 0x22#8 = State.reset.cfg.startA ∧
      0x69#8 ≠ State.reset.cfg.startA := by decide

theorem witness_AwaitStart1AdvancesOrResynchronises :
    (receiving .awaitStart1 0 [0x22]).rxState = .awaitStart1 ∧ 0x69#8 = State.reset.cfg.startB ∧
      0x22#8 ≠ State.reset.cfg.startB := by decide

theorem witness_AwaitLengthAcceptsSixAndAbove :
    (receiving .awaitLength 0 [0x22, 0x69]).rxState = .awaitLength ∧ 6 ≤ (0x06#8).toNat ∧
      6 ≤ (0xff#8).toNat ∧ (0x05#8).toNat < 6 ∧ (0x00#8).toNat < 6 := by decide

theorem witness_HeaderBytesAreStoredVerbatim :
    (receiving .hwidLsb 0 [0x22, 0x69, 6]).rxState = .hwidLsb ∧
    (receiving .hwidMsb 0 [0x22, 0x69, 6, 0xff]).rxState = .hwidMsb ∧
    bufRead (receiving .hwidMsb 0 [0x22, 0x69, 6, 0xff]).rx 3 = some 0xff ∧
    (receiving .msgIdLsb 0 [0x22, 0x69, 6, 0, 0]).rxState = .msgIdLsb ∧
    (receiving .msgIdMsb 0 [0x22, 0x69, 6, 0, 0, 0xff]).rxState = .msgIdMsb ∧
    bufRead (receiving .msgIdMsb 0 [0x22, 0x69, 6, 0, 0, 0xff]).rx 5 = some 0xff ∧
    (receiving .destId 0 [0x22, 0x69, 6, 0, 0, 0, 0]).rxState = .destId := by decide

theorem witness_OpcodeByteSkipsAnEmptyPayload :
    ((receiving .opcode 0 [0x22, 0x69, 6]).rxState = .opcode ∧
      bufRead (receiving .opcode 0 [0x22, 0x69, 6]).rx 2 = some 6 ∧ (6#8).toNat = 6) ∧
    (receiving .opcode 0 [0x22, 0x69, 7]).rxState = .opcode ∧
      bufRead (receiving .opcode 0 [0x22, 0x69, 7]).rx 2 = some 7 ∧ 6 < (7#8).toNat := by decide

/-- The last payload byte of the longest frame, at offset 257, and the one before it. -/
theorem witness_PayloadBytesFillToTheDeclaredLength :
    bufRead (receiving .payload 248 [0x22, 0x69, 0xff]).rx 2 = some 0xff ∧
    (receiving .payload 248 [0x22, 0x69, 0xff]).rxState = .payload ∧
    (248 < (0xff#8).toNat - 6 ∧ 248 + 1 = (0xff#8).toNat - 6) ∧
    247 < (0xff#8).toNat - 6 ∧ 247 + 1 ≠ (0xff#8).toNat - 6 := by decide

theorem witness_CompleteDeclinesFurtherBytes : asked.rxState = .complete := rfl

theorem witness_RxReadReturnsTheCompletedFrame :
    asked.rxState = .complete ∧ FrameIn asked.rx ping ∧ State.reset.rxState ≠ .complete :=
  ⟨rfl, ping_frameIn, by decide⟩

/-- The host feeds bytes to a decoder in `AwaitStart0`, then reads. -/
def feeding (bytes : List Byte) : State :=
  { State.reset with host := bytes.map Instr.rxByte ++ [.rxRead] }

/-- The least length and the greatest. -/
theorem witness_EveryFrameCompletesAtItsLastByte :
    (∃ s : State, ∃ xs : List Byte, 6 ≤ (0x06#8).toNat ∧ xs.length = (0x06#8).toNat ∧
      s.rxState = .awaitStart0 ∧
      s.host = (s.cfg.startA :: s.cfg.startB :: 0x06 :: xs).map Instr.rxByte ++ [.rxRead]) ∧
    ∃ s : State, ∃ xs : List Byte, 6 ≤ (0xff#8).toNat ∧ xs.length = (0xff#8).toNat ∧
      s.rxState = .awaitStart0 ∧
      s.host = (s.cfg.startA :: s.cfg.startB :: 0xff :: xs).map Instr.rxByte ++ [.rxRead] := by
  refine ⟨⟨feeding (0x22 :: 0x69 :: 0x06 :: List.replicate 6 0x22#8), List.replicate 6 0x22#8, by decide, rfl, rfl, rfl⟩,
    ⟨feeding (0x22 :: 0x69 :: 0xff :: List.replicate 255 0x22#8), List.replicate 255 0x22#8, by decide, ?_, rfl, rfl⟩⟩
  rw [List.length_replicate]
  rfl

/-- F8's four noise bytes. -/
theorem witness_NoiseWithoutTheFirstMarkerLeavesNoTrace :
    State.reset.rxState = .awaitStart0 ∧ (∀ b ∈ [0x00#8, 0xff#8, 0x69#8, 0x41#8], b ≠ Cfg0.startA) ∧
      ({ State.reset with host := [0x00, 0xff, 0x69, 0x41].map Instr.rxByte ++ [.status] } : State).host
        = [0x00, 0xff, 0x69, 0x41].map Instr.rxByte ++ [.status] := by decide

/-! The command encoder. -/

theorem witness_TxNewBuildsTheDefaultFrame : State.reset.cfg.WellFormed := cfg0_wellFormed

theorem witness_TxSetDelayStoresTheDelay :
    HoldsCommand (commanded (frame 0x12 [])) Cfg0.opcReboot ∧
      HoldsOtherCommand State.reset Cfg0.opcReboot ∧
      HoldsOtherCommand (commanded (frame 0x00 [])) Cfg0.opcReboot :=
  ⟨commanded_holds _ _, reset_holds_other _, ping_holds_other (by decide)⟩

theorem witness_TxSetTimeStoresBothTimes :
    HoldsCommand (commanded (frame 0x14 (List.replicate 8 0#8))) Cfg0.opcSetTime ∧
      HoldsOtherCommand (commanded (frame 0x00 [])) Cfg0.opcSetTime :=
  ⟨commanded_holds _ _, ping_holds_other (by decide)⟩

theorem witness_TxSetTelemTakesOnly78Bytes :
    HoldsCommand (commanded (frame 0x18 (List.replicate 78 0#8))) Cfg0.opcTelemetryReport ∧
      HoldsOtherCommand (commanded (frame 0x00 [])) Cfg0.opcTelemetryReport ∧
      (List.replicate 78 0xaa#8).length = 78 ∧ (List.replicate 77 0xaa#8).length ≠ 78 ∧
      (List.replicate 79 0xaa#8).length ≠ 78 :=
  ⟨commanded_holds _ _, ping_holds_other (by decide), List.length_replicate,
    (by rw [List.length_replicate]; decide), (by rw [List.length_replicate]; decide)⟩

theorem witness_TxSetPageWritesThePageNumberAlways :
    HoldsCommand (commanded (frame 0x02 [0])) Cfg0.opcBootloaderWritePage ∧
      HoldsOtherCommand (commanded (frame 0x00 [])) Cfg0.opcBootloaderWritePage ∧
      (List.replicate 128 0x5a#8).length = 128 ∧ (List.replicate 127 0x5a#8).length ≠ 128 :=
  ⟨commanded_holds _ _, ping_holds_other (by decide), List.length_replicate,
    (by rw [List.length_replicate]; decide)⟩

theorem witness_TxSetAsciiTakesUpTo249Bytes :
    HoldsCommand (commanded (frame 0x11 [])) Cfg0.opcCommonAscii ∧
      HoldsOtherCommand (commanded (frame 0x00 [])) Cfg0.opcCommonAscii ∧
      (List.replicate 249 0x41#8).length ≤ 249 ∧ 249 < (List.replicate 250 0x41#8).length :=
  ⟨commanded_holds _ _, ping_holds_other (by decide), List.length_replicate.le,
    (by rw [List.length_replicate]; decide)⟩

theorem witness_TxSetDataStoresUpTo124Elements :
    HoldsCommand (commanded (frame 0x16 [])) Cfg0.opcDataRecord ∧
      HoldsOtherCommand (commanded (frame 0x00 [])) Cfg0.opcDataRecord ∧
      (List.replicate 124 0x0102#16).length ≤ 124 ∧ 124 < (List.replicate 125 0x0102#16).length :=
  ⟨commanded_holds _ _, ping_holds_other (by decide), List.length_replicate.le,
    (by rw [List.length_replicate]; decide)⟩

theorem witness_SettersKeepTheHeader :
    (∃ t, exec (.txSetDelay 2000) (commanded (frame 0x12 [])) = .next t) ∧
    (∃ t, exec (.txSetTime 1 2) State.reset = .next t) ∧
    (∃ t, exec (.txSetTelem []) State.reset = .next t) ∧
    (∃ t, exec (.txSetPage 5 []) (commanded (frame 0x02 [0])) = .next t) ∧
    (∃ t, exec (.txSetAscii [0x68]) (commanded (frame 0x11 [])) = .next t) ∧
    ∃ t, exec (.txSetData [0x0102]) (commanded (frame 0x16 [])) = .next t :=
  ⟨⟨_, rfl⟩, ⟨_, rfl⟩, ⟨_, rfl⟩, ⟨_, rfl⟩, ⟨_, rfl⟩, ⟨_, rfl⟩⟩

theorem witness_TxSerializeOutputsTheCommandFrame :
    asked.cmdValid = true ∧ FrameIn asked.cmd ping ∧ State.reset.cmdValid = false :=
  ⟨rfl, ping_frameIn, rfl⟩

theorem witness_CommandRoundTripsThroughTheDecoder :
    ∃ s : State, Inv s ∧ s.cmdValid = true ∧ FrameIn s.cmd ping ∧ s.rxState = .awaitStart0 ∧
      s.host = .txSerialize :: (ping.map Instr.rxByte ++ .rxRead :: []) :=
  ⟨_, inv_host (.txSerialize :: (ping.map Instr.rxByte ++ .rxRead :: [])) cleared_inv, rfl,
    ping_frameIn, rfl, rfl⟩

theorem witness_ReplyRoundTripsThroughTheDecoder :
    ∃ s : State, Inv s ∧ s.rplEmpty = false ∧ FrameIn s.rpl pong ∧ s.rxState = .awaitStart0 ∧
      s.host = .rplSerialize :: (pong.map Instr.rxByte ++ .rxRead :: []) :=
  ⟨_, inv_host (.rplSerialize :: (pong.map Instr.rxByte ++ .rxRead :: [])) cleared_inv, rfl,
    pong_frameIn, rfl, rfl⟩

/-! The reply demultiplexer. -/

/-- A state with a received frame meets the first two hypotheses of every reply statement. -/
theorem received_ready (bytes : List Byte) :
    (received bytes).cfg.WellFormed ∧ (received bytes).rplEmpty = true := ⟨cfg0_wellFormed, rfl⟩

theorem witness_GetTelemetryIsAnsweredWithZeroTelemetry :
    Cfg0.WellFormed ∧ (received (frame 0x17 [])).rplEmpty = true ∧
      HoldsRequest (received (frame 0x17 [])) Cfg0.opcGetTelemetry (ask 1 []) :=
  ⟨cfg0_wellFormed, rfl, received_holds _ _ (by decide)⟩

theorem witness_GetTimeIsAnsweredWithTheClock :
    Cfg0.WellFormed ∧ (received (frame 0x13 [])).rplEmpty = true ∧
      HoldsRequest (received (frame 0x13 [])) Cfg0.opcGetTime (ask 1 []) ∧
      (device false false true).timeSet = true ∧ (device false false false).timeSet = false :=
  ⟨cfg0_wellFormed, rfl, received_holds _ _ (by decide), rfl, rfl⟩

/-- No delay; delays 1000 and 1001 against the threshold 1000; payloads of 3 and 5 bytes. -/
theorem witness_RebootIsAnsweredByTheDelayThreshold :
    Cfg0.WellFormed ∧
    (∀ payload ∈ [[], [0xe8#8, 3, 0, 0], [0xe9#8, 3, 0, 0], [1, 2, 3], [1, 2, 3, 4, 5]],
      (received (frame 0x12 payload)).rplEmpty = true ∧
        HoldsRequest (received (frame 0x12 payload)) Cfg0.opcReboot (ask 1 payload)) ∧
    (0xe8#8).toNat + 256 * (3#8).toNat ≤ Cfg0.maxDelay.toNat ∧
    Cfg0.maxDelay.toNat < (0xe9#8).toNat + 256 * (3#8).toNat := by
  refine ⟨cfg0_wellFormed, fun payload h => ⟨rfl, received_holds _ _ ?_⟩, by decide, by decide⟩
  simp only [List.mem_cons, List.not_mem_nil, or_false] at h
  rcases h with rfl | rfl | rfl | rfl | rfl <;> decide

theorem witness_SetTimeAndAckAreAcknowledged :
    (∀ bytes, (received bytes).cfg.WellFormed ∧ (received bytes).rplEmpty = true) ∧
    HoldsRequest (received (frame 0x14 [])) Cfg0.opcSetTime (ask 1 []) ∧
      HoldsRequest (received (frame 0x10 [])) Cfg0.opcCommonAck (ask 1 []) :=
  ⟨received_ready, received_holds _ _ (by decide), received_holds _ _ (by decide)⟩

theorem witness_FiveRequestsAreAlwaysNacked :
    (∀ bytes, (received bytes).cfg.WellFormed ∧ (received bytes).rplEmpty = true) ∧
    HoldsRequest (received (frame 0x18 [])) Cfg0.opcTelemetryReport (ask 1 []) ∧
      HoldsRequest (received (frame 0x01 [])) Cfg0.opcBootloaderAck (ask 1 []) ∧
      HoldsRequest (received (frame 0x0f [])) Cfg0.opcBootloaderNack (ask 1 []) ∧
      HoldsRequest (received (frame 0x11 [])) Cfg0.opcCommonAscii (ask 1 []) ∧
      HoldsRequest (received (frame 0xff [])) Cfg0.opcCommonNack (ask 1 []) :=
  ⟨received_ready, received_holds _ _ (by decide), received_holds _ _ (by decide), received_holds _ _ (by decide),
    received_holds _ _ (by decide), received_holds _ _ (by decide)⟩

theorem witness_BootModeGatesEraseAndPingAndJump :
    (∀ bytes, (received bytes).cfg.WellFormed ∧ (received bytes).rplEmpty = true) ∧
    HoldsRequest (received (frame 0x0c [])) Cfg0.opcBootloaderErase (ask 1 []) ∧
      HoldsRequest (received (frame 0x00 [])) Cfg0.opcBootloaderPing (ask 1 []) ∧
      HoldsRequest (received (frame 0x0b [])) Cfg0.opcBootloaderJump (ask 1 []) ∧
      (device true false false).bootMode = true ∧ (device false false false).bootMode = false :=
  ⟨received_ready, received_holds _ _ (by decide), received_holds _ _ (by decide), received_holds _ _ (by decide),
    rfl, rfl⟩

theorem witness_WritePageEchoesThePageNumber :
    (∀ bytes, (received bytes).cfg.WellFormed ∧ (received bytes).rplEmpty = true) ∧
    HoldsRequest (received (frame 0x02 [5])) Cfg0.opcBootloaderWritePage (ask 1 [5]) ∧
      HoldsRequest (received (frame 0x02 [])) Cfg0.opcBootloaderWritePage (ask 1 []) ∧
      (device false true false).bootMode = false ∧
      ((device true false false).bootMode = true ∧ (device true false false).flashWriteOk = false) ∧
      (device true true false).bootMode = true ∧ (device true true false).flashWriteOk = true :=
  ⟨received_ready, received_holds _ _ (by decide), received_holds _ _ (by decide), rfl, ⟨rfl, rfl⟩, rfl, rfl⟩

/-- Both policies, data-record and an unnamed opcode. -/
theorem witness_UnrecognizedRequestsFollowThePolicy :
    (∀ bytes, (received bytes).cfg.WellFormed ∧ (received bytes).rplEmpty = true) ∧
    cfgNack.WellFormed ∧ Cfg0.unrecognizedPolicy = .noReply ∧ cfgNack.unrecognizedPolicy = .nack ∧
      HoldsRequest (received (frame 0x16 [])) Cfg0.opcDataRecord (ask 1 []) ∧
      HoldsRequest (received (frame 0x7e [])) 0x7e (ask 1 []) ∧ 0x7e#8 ∉ Cfg0.opcodes ∧
      HoldsRequest { received (frame 0x7e []) with cfg := cfgNack } 0x7e (ask 1 []) ∧
      0x7e#8 ∉ cfgNack.opcodes :=
  ⟨received_ready, ⟨by decide, rfl, rfl, rfl, rfl⟩, rfl, rfl, received_holds _ _ (by decide),
    received_holds _ _ (by decide), by decide, ⟨rfl, by decide, stands_bufWriteAll _ _ _⟩, by decide⟩

theorem witness_ReplyGenOutsideItsPreconditionIsNotInvoked :
    State.reset.rxState ≠ .complete ∧ answered.rplEmpty = false := by decide

theorem witness_ReplyGenLeavesDecoderAndEncoder :
    ∃ t, exec (.replyGen (device true false false)) asked = .next t := ⟨_, rfl⟩

theorem witness_RepliesAreOneOfSixTemplates :
    ∃ t, exec (.replyGen (device true false false)) asked = .next t ∧
      Emits (.reply .replied) asked t := ⟨_, rfl, rfl, rfl, rfl⟩

/-- Two states that differ in the command frame, on which the reply does not depend. -/
theorem witness_ReplyGenDependsOnTheRequestAlone :
    ∃ s s' : State, Inv s ∧ Inv s' ∧ s'.cfg = s.cfg ∧ s'.rxState = s.rxState ∧
      s'.rplEmpty = s.rplEmpty ∧ (∀ a, 2 ≤ a → a ≤ 12 → bufRead s'.rx a = bufRead s.rx a) ∧
      s' ≠ s :=
  ⟨asked, { asked with cmd := [], cmdValid := false }, asked_inv,
    ⟨cfg0_wellFormed, ⟨asked_fd.held, asked_fd.startA, asked_fd.startB, asked_fd.len, asked_fd.idle,
      asked_fd.payload, asked_fd.complete⟩, ceInv_empty rfl rfl, rdInv_empty rfl rfl⟩,
    rfl, rfl, rfl, fun _ _ _ => rfl, by decide⟩

theorem witness_RplSerializeOutputsThePendingReply :
    answered.rplEmpty = false ∧ FrameIn answered.rpl pong ∧ State.reset.rplEmpty = true :=
  ⟨rfl, pong_frameIn, rfl⟩

/-! The whole machine. -/

theorem witness_EveryStepKeepsTheInvariant :
    ∃ s t : State, Inv s ∧ step s = .next t ∧ t ≠ s :=
  ⟨{ asked with host := [.replyGen (device true false false)] }, _, inv_host _ asked_inv, rfl,
    by decide⟩

theorem witness_SoundStatesNeverFault : Inv { asked with host := [.rxRead] } :=
  inv_host _ asked_inv

/-- A state for each of the four refusals, each with the invariant, and one operation that runs. -/
theorem witness_ExactlyFourInputsAreRefused :
    Inv State.reset ∧ State.reset.cmdValid = false ∧
    (Inv (commanded (frame 0x16 [])) ∧
      HoldsCommand (commanded (frame 0x16 [])) Cfg0.opcDataRecord ∧
      124 < (List.replicate 125 0x0102#16).length) ∧
    (Inv (received (frame 0x12 [1, 2])) ∧
      HoldsRequest (received (frame 0x12 [1, 2])) Cfg0.opcReboot (ask 1 [1, 2])) ∧
    (Inv (received (frame 0x02 [])) ∧
      HoldsRequest (received (frame 0x02 [])) Cfg0.opcBootloaderWritePage (ask 1 [])) ∧
    (Inv asked ∧ Instr.txSerialize.isOperation = true ∧ asked.cmdValid = true) :=
  ⟨reset_inv, rfl,
    ⟨⟨cfg0_wellFormed, fdInv_idle rfl rfl rfl, ⟨fun h => (by cases h), fun _ => ⟨rfl, rfl⟩,
      fun _ => ⟨9, 0x06, 0x16, by decide, by decide, rfl, rfl, by decide, by decide, by decide,
        by decide⟩⟩, rdInv_empty rfl rfl⟩, commanded_holds _ _, (by rw [List.length_replicate]; decide)⟩,
    ⟨⟨cfg0_wellFormed, fdInv_complete 0x08 rfl (by decide) (by exact ⟨rfl, rfl⟩) rfl (by decide) rfl,
      ceInv_empty rfl rfl, rdInv_empty rfl rfl⟩, received_holds _ _ (by decide)⟩,
    ⟨⟨cfg0_wellFormed, fdInv_complete 0x06 rfl (by decide) (by exact ⟨rfl, rfl⟩) rfl (by decide) rfl,
      ceInv_empty rfl rfl, rdInv_empty rfl rfl⟩, received_holds _ _ (by decide)⟩,
    asked_inv, rfl, rfl⟩

theorem witness_EveryInstructionKeepsTheMemoryCanonical :
    Memory.wf answered = true ∧ ∃ t, exec (.rxByte 0x22) answered = .next t :=
  ⟨by decide, ⟨_, rfl⟩⟩

/-- An instruction that changes each buffer. -/
theorem witness_BuffersAreWrittenByTheirOwnUnit :
    (∃ t, exec (.rxByte 0x22) State.reset = .next t ∧ t.rx ≠ State.reset.rx) ∧
    (∃ t, exec (.txNew 0x00 0x1234 1 1 2) State.reset = .next t ∧ t.cmd ≠ State.reset.cmd) ∧
    ∃ t, exec (.replyGen (device true false false)) asked = .next t ∧ t.rpl ≠ asked.rpl :=
  ⟨⟨_, rfl, by decide⟩, ⟨_, rfl, by decide⟩, ⟨_, rfl, by decide⟩⟩

/-- An operation that changes each flag, in each direction. -/
theorem witness_FlagsChangeOnlyByTheirOperations :
    (∃ t, exec (.rxByte 0x00) (receiving .opcode 0 [0x22, 0x69, 6, 0x34, 0x12, 1, 0, 0x12]) = .next t ∧
      rxComplete t = true) ∧
    (∃ t, exec .rxClear answered = .next t ∧ rxComplete answered = true ∧ rxComplete t = false) ∧
    (∃ t, exec .status asked = .next t ∧ rxComplete asked = true ∧ rxComplete t = true) ∧
    (∃ t, exec (.replyGen (device true false false)) asked = .next t ∧ asked.rplEmpty = true ∧
      t.rplEmpty = false) ∧
    (∃ t, exec .rplClear answered = .next t ∧ answered.rplEmpty = false ∧ t.rplEmpty = true) ∧
    (∃ t, exec (.txNew 0x00 0x1234 1 1 2) State.reset = .next t ∧ t.cmdValid = true) ∧
    ∃ t, exec .reset asked = .next t ∧ asked.cmdValid = true ∧ t.cmdValid = false :=
  ⟨⟨_, rfl, rfl⟩, ⟨_, rfl, rfl, rfl⟩, ⟨_, rfl, rfl, rfl⟩, ⟨_, rfl, rfl, rfl⟩, ⟨_, rfl, rfl, rfl⟩,
    ⟨_, rfl, rfl⟩, ⟨_, rfl, rfl, rfl⟩⟩

theorem witness_TheDecoderMovesForwardByOneByte :
    ∃ t, exec (.rxByte 0x22) State.reset = .next t ∧ t.rxState ≠ State.reset.rxState :=
  ⟨_, rfl, by decide⟩

end Sys2Proof.Tests
end

section
/-! Proofs of the family 10_state.md: what RX_CLEAR does in every state. -/

namespace Sys2Proof.Machine

/-! ### What `discard` leaves alone -/

theorem sameCe_discard (s : State) : SameCe s (discard s) :=
  ⟨discard_cmd s, discard_cmdValid s⟩

theorem sameRd_discard (s : State) : SameRd s (discard s) :=
  ⟨discard_rpl s, discard_rplEmpty s⟩

/-- After `discard` no offset of `RX` holds a value (R38). -/
theorem bufRead_rx_discard (s : State) (a : Nat) : bufRead (discard s).rx a = none := by
  rw [discard_rx, bufRead_nil]

/-! ### RX_CLEAR -/

/-- RX_CLEAR completes in every state; its next state is the discarded one with the output recorded
(R134). -/
theorem exec_rxClear (s : State) : exec .rxClear s = .next (emit .nothing (discard s)) := rfl

/-- Settles O12: the next state is `discard`'s, and recording the output changes neither a buffer nor
a flag. -/
theorem rxClearDiscardsTheReception : Obligations.RxClearDiscardsTheReception := by
  intro s
  have emitted : Emits .nothing s (emit .nothing (discard s)) := by simp [Emits]
  exact ⟨_, exec_rxClear s, discard_rxState s, discard_rxCnt s, bufRead_rx_discard s,
    sameCe_discard s, sameRd_discard s, emitted⟩

end Sys2Proof.Machine
end

section
/-! Proofs of the family 30_encoding.md: the addressing byte, and the lengths of a decoded frame. -/

namespace Sys2Proof

/-! ### The addressing byte -/

theorem packAddr_toNat (src dst : U4) :
    (packAddr src dst).toNat = 16 * src.toNat + dst.toNat := by
  have apart : src.toNat <<< 4 + dst.toNat = src.toNat <<< 4 ||| dst.toNat :=
    Nat.shiftLeft_add_eq_or_of_lt dst.isLt _
  rw [packAddr, BitVec.toNat_append, ← apart, Nat.shiftLeft_eq]
  omega

@[simp] theorem swap4_packAddr (src dst : U4) : swap4 (packAddr src dst) = packAddr dst src := by
  rw [swap4, hi4_packAddr, lo4_packAddr]

@[simp] theorem swap4_swap4 (a : Byte) : swap4 (swap4 a) = a := by
  calc swap4 (swap4 a) = swap4 (packAddr (lo4 a) (hi4 a)) := rfl
    _ = packAddr (hi4 a) (lo4 a) := swap4_packAddr _ _
    _ = a := packAddr_nibbles a

/-- Settles O5: the nibbles come back from the packed byte, and so the bounce packs them exchanged. -/
theorem addressBounceExchangesTheNibbles : Obligations.AddressBounceExchangesTheNibbles := by
  intro src dst a
  exact ⟨packAddr_toNat src dst, hi4_packAddr src dst, lo4_packAddr src dst,
    swap4_packAddr src dst, swap4_swap4 a⟩

/-! ### What the decoder accepts -/

/-- The row an opcode byte selects is a request with that opcode byte and the fields it was given,
under every configuration. -/
@[simp] theorem request_instrOf (c : Cfg) (op : Byte) (q : Request) (d : DeviceState) :
    (instrOf c op q d).request c = some (op, q, d) := by
  apply instrOf_ind (fun i => i.request c = some (op, q, d))
  case unrecognized => exact fun _ => rfl
  all_goals
    intro selected
    rw [selected]
    rfl

/-- All that decoding a frame can have read: the two markers, a length byte of 6 or more, six header
bytes, and a payload of the length declared; what it leaves follows the payload (R80, R82). -/
theorem decode_ok {c : Cfg} {d : DeviceState} {bytes rest : List Byte} {i : Instr}
    (h : decode c d bytes = .ok (i, rest)) :
    ∃ (len h0 h1 m0 m1 addr op : Byte) (payload : List Byte),
      lenMin ≤ len.toNat ∧ payload.length = pldLen len ∧
      bytes = c.startA :: c.startB :: len :: h0 :: h1 :: m0 :: m1 :: addr :: op ::
        (payload ++ rest) ∧
      i = instrOf c op
        { hwid := BitVec.ofNat 16 (leValue [h0, h1])
          msgid := BitVec.ofNat 16 (leValue [m0, m1])
          src := hi4 addr
          dst := lo4 addr
          payload := payload } d := by
  unfold decode at h
  split at h
  next a b len h0 h1 m0 m1 addr op body =>
    split_ifs at h with badA badB short truncated
    obtain ⟨rfl, rfl⟩ := Prod.mk.inj (Except.ok.inj h)
    have markA : a = c.startA := not_not.mp badA
    have markB : b = c.startB := not_not.mp badB
    have taken : (body.take (pldLen len)).length = pldLen len :=
      List.length_take_of_le (not_lt.mp truncated)
    refine ⟨len, h0, h1, m0, m1, addr, op, body.take (pldLen len), not_lt.mp short, taken, ?_, rfl⟩
    rw [markA, markB, List.take_append_drop]
  next => cases h

/-! ### The length laws -/

/-- The lengths of a decoded frame, its length byte the third byte (R81). -/
theorem decode_ok_lengths {c : Cfg} {d : DeviceState} {a b len : Byte} {more rest : List Byte}
    {i : Instr} (h : decode c d (a :: b :: len :: more) = .ok (i, rest)) :
    lenMin ≤ len.toNat ∧
      (a :: b :: len :: more).length = len.toNat + overhead + rest.length ∧
      ∃ op q, i.request c = some (op, q, d) ∧ q.payload.length = len.toNat - hdrCounted := by
  obtain ⟨_, h0, h1, m0, m1, addr, op, payload, atLeast, declared, spelled, row⟩ := decode_ok h
  obtain ⟨-, -, rfl, tail⟩ : a = c.startA ∧ b = c.startB ∧ len = _ ∧ more = _ := by
    simpa only [List.cons.injEq] using spelled
  refine ⟨atLeast, ?_, op, _, row ▸ request_instrOf c op _ d, declared⟩
  have whole : hdrCounted + pldLen len = len.toNat := Nat.add_sub_of_le atLeast
  rw [tail, ← whole]
  simp only [List.length_cons, List.length_append, declared, hdrCounted, overhead]
  omega

/-- Settles O3: a decoded frame has a length byte of 6 or more, so bytes with a lesser one can only be
answered by an error. -/
theorem frameLengthLaws : Obligations.FrameLengthLaws := by
  intro c d a b len more
  constructor
  · intro tooShort
    cases answer : decode c d (a :: b :: len :: more) with
    | error e => exact ⟨e, rfl⟩
    | ok frame =>
      obtain ⟨atLeast, -, -⟩ := decode_ok_lengths answer
      exact absurd tooShort (not_lt.mpr atLeast)
  · intro i rest h
    obtain ⟨atLeast, total, fields⟩ := decode_ok_lengths h
    exact ⟨atLeast, Nat.le_of_lt_succ len.isLt, total, fields⟩

end Sys2Proof
end

section
/-! Proofs of the family 40_frame_decoder.md: the states of the decoder that store their byte whatever
it is, from the hardware id to the last payload byte. -/

namespace Sys2Proof.Machine

/-! ### The header's views -/

/-- Two bytes assemble with the one at the lower offset as the low byte (R50). -/
theorem memRead_two {b : Buffer} {off : Nat} {lo hi : Byte}
    (low : bufRead b off = some lo) (high : bufRead b (off + 1) = some hi) :
    memRead b off 2 = some (lo.toNat + 256 * hi.toNat) := by
  simp [memRead, bufReadAll, low, high, leValue]

theorem viewHwid_eq {b : Buffer} {lo hi : Byte}
    (low : bufRead b offHwid = some lo) (high : bufRead b (offHwid + 1) = some hi) :
    viewHwid b = some (BitVec.ofNat 16 (lo.toNat + 256 * hi.toNat)) := by
  rw [viewHwid, memRead_two low high, Option.map_some]

theorem viewMsgid_eq {b : Buffer} {lo hi : Byte}
    (low : bufRead b offMsgid = some lo) (high : bufRead b (offMsgid + 1) = some hi) :
    viewMsgid b = some (BitVec.ofNat 16 (lo.toNat + 256 * hi.toNat)) := by
  rw [viewMsgid, memRead_two low high, Option.map_some]

theorem viewSrc_eq {b : Buffer} {addr : Byte} (h : bufRead b offAddr = some addr) :
    viewSrc b = some (hi4 addr) := by
  rw [viewSrc, h, Option.map_some]

theorem viewDst_eq {b : Buffer} {addr : Byte} (h : bufRead b offAddr = some addr) :
    viewDst b = some (lo4 addr) := by
  rw [viewDst, h, Option.map_some]

theorem viewPldLen_eq {b : Buffer} {len : Byte} (h : bufRead b offLen = some len) :
    viewPldLen b = some (pldLen len) := by
  rw [viewPldLen, h, Option.map_some]

/-! ### A received byte that is stored -/

/-- RX_BYTE performs the rule of the decoder's current state (R121). -/
theorem exec_rxByte (b : Byte) (s : State) : exec (.rxByte b) s = execRxByte b s := rfl

/-- The state after RX_BYTE has stored its byte at `off`: the decoder is in `next`, its counter is
`cnt`, and the byte is reported consumed. -/
def rxStored (off : Nat) (b : Byte) (next : RxState) (cnt : Nat) (s : State) : State :=
  emit (.consumed true) (setCnt cnt (storeRx off b next s))

section
variable {off : Nat} {b : Byte} {next : RxState} {cnt : Nat} {s : State}

@[simp] theorem rxStored_rxState : (rxStored off b next cnt s).rxState = next := rfl

@[simp] theorem rxStored_rxCnt : (rxStored off b next cnt s).rxCnt = cnt := rfl

@[simp] theorem rxStored_rx : (rxStored off b next cnt s).rx = bufWrite s.rx off b := rfl

theorem bufRead_rxStored : bufRead (rxStored off b next cnt s).rx off = some b := by
  rw [rxStored_rx, bufRead_bufWrite_same]

theorem sameOutside_rxStored : SameOutside off 1 s.rx (rxStored off b next cnt s).rx :=
  sameOutside_bufWrite s.rx off b

theorem sameCe_rxStored : SameCe s (rxStored off b next cnt s) := ⟨rfl, rfl⟩

theorem sameRd_rxStored : SameRd s (rxStored off b next cnt s) := ⟨rfl, rfl⟩

theorem emits_rxStored : Emits (.consumed true) s (rxStored off b next cnt s) := ⟨rfl, rfl, rfl⟩

end

/-! ### The five header states -/

/-- The offset at which a header state stores its byte, and the state that follows (R125 to R129). -/
def headerPlace : RxState → Option (Nat × RxState)
  | .hwidLsb => some (offHwid, .hwidMsb)
  | .hwidMsb => some (offHwid + 1, .msgIdLsb)
  | .msgIdLsb => some (offMsgid, .msgIdMsb)
  | .msgIdMsb => some (offMsgid + 1, .destId)
  | .destId => some (offAddr, .opcode)
  | _ => none

/-- In a header state RX_BYTE stores the byte at that state's offset and advances; the counter is not
touched. -/
theorem exec_rxByte_header {s : State} {off : Nat} {next : RxState} (b : Byte)
    (place : headerPlace s.rxState = some (off, next)) :
    exec (.rxByte b) s = .next (rxStored off b next s.rxCnt s) := by
  rw [exec_rxByte, execRxByte]
  cases state : s.rxState <;> rw [state] at place
  case hwidLsb | hwidMsb | msgIdLsb | msgIdMsb | destId =>
    cases place
    rfl
  all_goals cases place

/-- Settles O16: each header state has its place, and an id's high byte completes the view whose low
byte stands below it, untouched by the store. -/
theorem headerBytesAreStoredVerbatim : Obligations.HeaderBytesAreStoredVerbatim := by
  intro s b stores
  have stored {off : Nat} {next : RxState} (place : headerPlace s.rxState = some (off, next)) :
      stores off next (rxStored off b next s.rxCnt s) :=
    ⟨exec_rxByte_header b place, bufRead_rxStored, sameOutside_rxStored, rxStored_rxState,
      rxStored_rxCnt, sameCe_rxStored, sameRd_rxStored, emits_rxStored⟩
  refine ⟨fun state => ?hwidLsb, fun state => ?hwidMsb, fun state => ?msgIdLsb,
    fun state => ?msgIdMsb, fun state => ?destId⟩
  case hwidLsb => exact ⟨_, stored (congrArg headerPlace state)⟩
  case hwidMsb =>
    refine ⟨_, stored (congrArg headerPlace state), fun lo low => ?_⟩
    exact viewHwid_eq ((sameOutside_rxStored offHwid (by decide)).trans low)
      bufRead_rxStored
  case msgIdLsb => exact ⟨_, stored (congrArg headerPlace state)⟩
  case msgIdMsb =>
    refine ⟨_, stored (congrArg headerPlace state), fun lo low => ?_⟩
    exact viewMsgid_eq ((sameOutside_rxStored offMsgid (by decide)).trans low)
      bufRead_rxStored
  case destId =>
    exact ⟨_, stored (congrArg headerPlace state), viewSrc_eq bufRead_rxStored,
      viewDst_eq bufRead_rxStored⟩

/-! ### The opcode byte -/

/-- With payload bytes declared, the opcode byte is followed by the first of them, counted from 0. -/
theorem exec_rxByte_opcode_payload {s : State} {len : Byte} (b : Byte) (state : s.rxState = .opcode)
    (held : bufRead s.rx offLen = some len) (declared : 0 < pldLen len) :
    exec (.rxByte b) s = .next (rxStored offOpcode b .payload 0 s) := by
  simp only [exec_rxByte, execRxByte, state, rxOpcode, viewPldLen_eq held, if_pos declared]
  rfl

/-- With no payload byte declared, the opcode byte is the frame's last. -/
theorem exec_rxByte_opcode_empty {s : State} {len : Byte} (b : Byte) (state : s.rxState = .opcode)
    (held : bufRead s.rx offLen = some len) (empty : pldLen len = 0) :
    exec (.rxByte b) s = .next (rxStored offOpcode b .complete s.rxCnt s) := by
  simp only [exec_rxByte, execRxByte, state, rxOpcode, viewPldLen_eq held, empty,
    lt_irrefl, if_false]
  rfl

/-- Settles O17: the length byte, 6 or more, is 6 or declares a payload. -/
theorem opcodeByteSkipsAnEmptyPayload : Obligations.OpcodeByteSkipsAnEmptyPayload := by
  intro s b len state held atLeast
  rcases Nat.eq_or_lt_of_le atLeast with empty | declared
  · have noPayload : pldLen len = 0 := Nat.sub_eq_zero_of_le empty.ge
    exact ⟨_, exec_rxByte_opcode_empty b state held noPayload, bufRead_rxStored,
      sameOutside_rxStored, fun more => absurd empty more.ne,
      fun _ => ⟨rxStored_rxState, rxStored_rxCnt⟩, sameCe_rxStored, sameRd_rxStored, emits_rxStored⟩
  · have hasPayload : 0 < pldLen len := Nat.sub_pos_of_lt declared
    exact ⟨_, exec_rxByte_opcode_payload b state held hasPayload, bufRead_rxStored,
      sameOutside_rxStored, fun _ => ⟨rxStored_rxState, rxStored_rxCnt⟩,
      fun least => absurd least declared.ne', sameCe_rxStored, sameRd_rxStored, emits_rxStored⟩

/-! ### The payload bytes -/

/-- A payload byte within the declared length has an offset in the buffer: no payload is longer than
249 bytes (R34). -/
theorem payload_offset_lt_frameMax {len : Byte} {cnt : Nat} (h : cnt < pldLen len) :
    offPld + cnt < frameMax := by
  calc offPld + cnt < offPld + pldLen len := Nat.add_lt_add_left h offPld
    _ ≤ offPld + pldMax := Nat.add_le_add_left (pldLen_le len) offPld
    _ = frameMax := rfl

/-- In `Payload` RX_BYTE stores the byte behind those stored so far and counts it; the frame is then
complete where the declared length is reached. -/
theorem exec_rxByte_payload {s : State} {len : Byte} (b : Byte) (state : s.rxState = .payload)
    (held : bufRead s.rx offLen = some len) (room : s.rxCnt < pldLen len) :
    exec (.rxByte b) s = .next (rxStored (offPld + s.rxCnt) b
      (if s.rxCnt + 1 = pldLen len then .complete else .payload) (s.rxCnt + 1) s) := by
  simp only [exec_rxByte, execRxByte, state, rxPayload, viewPldLen_eq held,
    if_pos (payload_offset_lt_frameMax room)]
  rfl

/-- Settles O18: the offset is in the buffer because the count is below the declared length. -/
theorem payloadBytesFillToTheDeclaredLength :
    Obligations.PayloadBytesFillToTheDeclaredLength := by
  intro s b len state held room
  have inside : 9 + s.rxCnt ≤ 257 := Nat.le_of_lt_succ (payload_offset_lt_frameMax room)
  exact ⟨_, exec_rxByte_payload b state held room, bufRead_rxStored, inside,
    sameOutside_rxStored, rxStored_rxCnt, fun reached => if_pos reached, fun short => if_neg short,
    sameCe_rxStored, sameRd_rxStored, emits_rxStored⟩

end Sys2Proof.Machine
end

section
/-! Proofs of the family 42_reply_demux.md: the request in `RX` as REPLY_GEN runs it, the requests
answered unconditionally, by the clock or by boot mode, and what REPLY_GEN depends on. -/

namespace Sys2Proof

/-! ### The frame of a request, decoded -/

/-- A 16-bit value is its two bytes assembled again. -/
theorem ofNat_leValue_u16 (v : U16) :
    BitVec.ofNat 16 (leValue [v.extractLsb' 0 8, v.extractLsb' 8 8]) = v := by
  rw [← leBytes_u16, leValue_leBytes, show 256 ^ 2 = 2 ^ 16 from rfl, Nat.mod_eq_of_lt v.isLt,
    BitVec.ofNat_toNat, BitVec.setWidth_eq]

/-- Decoding a frame of legal length selects the row of its opcode byte, with every field (R80). -/
theorem decode_frameOf (c : Cfg) (d : DeviceState) (op : Byte) {q : Request}
    (legal : q.payload.length ≤ pldMax) :
    decode c d (frameOf c op q) = .ok (instrOf c op q d, []) := by
  have atLeast : ¬ (lenByte q.payload.length).toNat < lenMin := by
    rw [lenByte_toNat legal, hdrCounted, lenMin]
    omega
  simp only [frameOf_eq, decode, ne_eq, not_true_eq_false, if_false, if_neg atLeast,
    pldLen_lenByte legal, lt_irrefl, List.take_length, List.drop_length, ofNat_leValue_u16,
    hi4_packAddr, lo4_packAddr]

/-- The row an opcode byte selects is a request frame, never an operation. -/
theorem isOperation_instrOf (c : Cfg) (op : Byte) (q : Request) (d : DeviceState) :
    (instrOf c op q d).isOperation = false := by
  apply instrOf_ind (fun i => i.isOperation = false) <;> exact fun _ => rfl

/-- Under a well-formed configuration the opcode byte of a well-formed request selects that request:
no earlier row of the dispatch has the same opcode (R7, R195). -/
theorem instrOf_of_request {c : Cfg} {i : Instr} {op : Byte} {q : Request} {d : DeviceState}
    (wellFormed : c.WellFormed) (legal : i.wellFormed c = true)
    (spelled : i.request c = some (op, q, d)) : instrOf c op q d = i := by
  have distinct := wellFormed.distinct
  simp only [Cfg.opcodes, List.nodup_cons, List.mem_cons, List.not_mem_nil, not_or, or_false]
    at distinct
  cases i <;> cases spelled
  case unrecognized =>
    obtain ⟨-, unnamed⟩ : q.wellFormed = true ∧ op ∉ c.opcodes := by
      simpa only [Instr.wellFormed, Bool.and_eq_true, Bool.not_eq_true', List.contains_eq_mem,
        decide_eq_false_iff_not] using legal
    simp only [Cfg.opcodes, List.mem_cons, List.not_mem_nil, not_or, or_false] at unnamed
    simp only [instrOf, unnamed, if_false]
  all_goals
    simp only [instrOf]
    grind

/-- Two requests with one opcode byte select one row: what holds of each row with either request
holds of the two rows selected. -/
theorem instrOf_ind₂ (P : Instr → Instr → Prop) (c : Cfg) (op : Byte) (q q' : Request)
    (d : DeviceState)
    (bootloaderPing : P (.bootloaderPing q d) (.bootloaderPing q' d))
    (bootloaderAck : P (.bootloaderAck q d) (.bootloaderAck q' d))
    (bootloaderWritePage : P (.bootloaderWritePage q d) (.bootloaderWritePage q' d))
    (bootloaderJump : P (.bootloaderJump q d) (.bootloaderJump q' d))
    (bootloaderErase : P (.bootloaderErase q d) (.bootloaderErase q' d))
    (bootloaderNack : P (.bootloaderNack q d) (.bootloaderNack q' d))
    (commonAck : P (.commonAck q d) (.commonAck q' d))
    (commonAscii : P (.commonAscii q d) (.commonAscii q' d))
    (reboot : P (.reboot q d) (.reboot q' d))
    (getTime : P (.getTime q d) (.getTime q' d))
    (setTime : P (.setTime q d) (.setTime q' d))
    (dataRecord : P (.dataRecord q d) (.dataRecord q' d))
    (getTelemetry : P (.getTelemetry q d) (.getTelemetry q' d))
    (telemetryReport : P (.telemetryReport q d) (.telemetryReport q' d))
    (commonNack : P (.commonNack q d) (.commonNack q' d))
    (unrecognized : P (.unrecognized op q d) (.unrecognized op q' d)) :
    P (instrOf c op q d) (instrOf c op q' d) := by
  unfold instrOf
  have row {i i' j j' : Instr} {selected : Prop} [Decidable selected] (here : P i i')
      (later : P j j') : P (if selected then i else j) (if selected then i' else j') := by
    split <;> assumption
  exact row bootloaderPing <| row bootloaderAck <| row bootloaderWritePage <| row bootloaderJump <|
    row bootloaderErase <| row bootloaderNack <| row commonAck <| row commonAscii <| row reboot <|
    row getTime <| row setTime <| row dataRecord <| row getTelemetry <| row telemetryReport <|
    row commonNack unrecognized

end Sys2Proof

namespace Sys2Proof.Machine

/-! ### The request in `RX` -/

theorem exec_replyGen (d : DeviceState) (s : State) :
    exec (.replyGen d) s = execReplyGen d s := rfl

/-- The frame in `RX` is what REPLY_GEN fetches, decoded. -/
theorem fetchRequest_eq {s : State} {d : DeviceState} {bytes rest : List Byte} {i : Instr}
    (whole : FrameIn s.rx bytes) (decoded : decode s.cfg d bytes = .ok (i, rest)) :
    fetchRequest d s = some i := by
  simp only [fetchRequest, bufFrame_eq_some.2 whole, decoded]

section
variable {s : State} {op : Byte} {q : Request}

theorem HoldsRequest.complete (held : HoldsRequest s op q) : s.rxState = .complete := held.1

theorem HoldsRequest.legal (held : HoldsRequest s op q) : q.payload.length ≤ pldMax := held.2.1

/-- A request in `RX` is the whole frame there. -/
theorem HoldsRequest.frameIn (held : HoldsRequest s op q) : FrameIn s.rx (frameOf s.cfg op q) := by
  obtain ⟨-, legal, stands⟩ := held
  refine ⟨stands, lenByte q.payload.length, ?_, ?_⟩
  · have third := stands offLen (by simp only [frameOf_length, offLen, offPld]; omega)
    rwa [Nat.zero_add, frameOf_eq] at third
  · simp only [frameOf_length, lenByte_toNat legal, offPld, hdrCounted, overhead]
    omega

theorem fetchRequest_of_holds (held : HoldsRequest s op q) (d : DeviceState) :
    fetchRequest d s = some (instrOf s.cfg op q d) :=
  fetchRequest_eq held.frameIn (decode_frameOf s.cfg d op held.legal)

/-- With no reply pending, REPLY_GEN runs the row that the request's opcode byte selects (R195). -/
theorem exec_replyGen_of_holds (held : HoldsRequest s op q) (idle : s.rplEmpty = true)
    (d : DeviceState) : exec (.replyGen d) s = exec (instrOf s.cfg op q d) s := by
  rw [exec_replyGen, execReplyGen, invoke_ready _ held.complete idle, fetchRequest_of_holds held d]
  exact answer_eq_exec s (isOperation_instrOf s.cfg op q d)

/-! ### A request that is answered -/

variable {d : DeviceState} {i : Instr} {answered : Outcome} {rop : Byte} {payload : List Byte}

/-- A request instruction whose meaning, behind the precondition, is `reply(op, P)` is answered so,
run by itself and run by REPLY_GEN. -/
theorem answers_of_meaning (wellFormed : s.cfg.WellFormed) (idle : s.rplEmpty = true)
    (held : HoldsRequest s op q) (spelled : i.request s.cfg = some (op, q, d))
    (legal : q.wellFormed = true → i.wellFormed s.cfg = true)
    (meaning : exec i s = invoke answered s) (replies : answered = reply rop payload q s) :
    Answers i d rop payload q s := by
  have row : instrOf s.cfg op q d = i :=
    instrOf_of_request wellFormed (legal (decide_eq_true held.legal)) spelled
  have direct : exec i s = reply rop payload q s := by
    rw [meaning, invoke_ready _ held.complete idle, replies]
  have fetched : exec (.replyGen d) s = exec i s := by rw [exec_replyGen_of_holds held idle, row]
  obtain ⟨t, next, replied⟩ := reply_replied rop payload q s
  exact ⟨t, direct.trans next, fetched.trans (direct.trans next), replied⟩

/-- A request gated by boot mode is answered with its reason code in boot mode, with common-nack out
of it (60_exceptions.md R253). -/
theorem answers_of_replyInBootMode {reason : Byte} (wellFormed : s.cfg.WellFormed)
    (idle : s.rplEmpty = true) (held : HoldsRequest s op q)
    (spelled : i.request s.cfg = some (op, q, d))
    (legal : q.wellFormed = true → i.wellFormed s.cfg = true)
    (meaning : exec i s = invoke (replyInBootMode reason q d s) s) :
    (d.bootMode = true → Answers i d s.cfg.opcBootloaderAck [reason] q s) ∧
      (d.bootMode = false → Answers i d s.cfg.opcCommonNack [] q s) := by
  have answers {rop payload} := answers_of_meaning (rop := rop) (payload := payload)
    wellFormed idle held spelled legal meaning
  rcases replyInBootMode_cases reason q d s with ⟨boot, replies⟩ | ⟨boot, replies⟩
  · exact ⟨fun _ => answers replies, fun off => absurd off (ne_false_of_eq_true boot)⟩
  · exact ⟨fun on => absurd on (ne_true_of_eq_false boot), fun _ => answers replies⟩

end

/-- Settles O34: the body is the constant of the model, whatever the device state. -/
theorem getTelemetryIsAnsweredWithZeroTelemetry :
    Obligations.GetTelemetryIsAnsweredWithZeroTelemetry := by
  intro s q d wellFormed idle held
  exact answers_of_meaning wellFormed idle held rfl id rfl rfl

/-- Settles O35: one case for each value of `timeSet`; the clock's bytes are those of `MemWrite`. -/
theorem getTimeIsAnsweredWithTheClock : Obligations.GetTimeIsAnsweredWithTheClock := by
  intro s q d wellFormed idle held
  rw [← leBytes_u32, ← leBytes_u32]
  constructor
  · intro set
    exact answers_of_meaning wellFormed idle held rfl id rfl (if_pos set)
  · intro unset
    exact answers_of_meaning wellFormed idle held rfl id rfl (if_neg (ne_true_of_eq_false unset))

/-- Settles O37: neither rule reads the payload or the device state. -/
theorem setTimeAndAckAreAcknowledged : Obligations.SetTimeAndAckAreAcknowledged := by
  intro s q d wellFormed idle
  refine ⟨fun setTime => ?_, fun commonAck => ?_⟩
  · exact answers_of_meaning wellFormed idle setTime rfl id rfl rfl
  · exact answers_of_meaning wellFormed idle commonAck rfl id rfl rfl

/-- Settles O38: none of the five rules reads the payload or the device state. -/
theorem fiveRequestsAreAlwaysNacked : Obligations.FiveRequestsAreAlwaysNacked := by
  intro s q d wellFormed idle
  refine ⟨fun telemetryReport => ?_, fun bootloaderAck => ?_, fun bootloaderNack => ?_,
    fun commonAscii => ?_, fun commonNack => ?_⟩
  · exact answers_of_meaning wellFormed idle telemetryReport rfl id rfl rfl
  · exact answers_of_meaning wellFormed idle bootloaderAck rfl id rfl rfl
  · exact answers_of_meaning wellFormed idle bootloaderNack rfl id rfl rfl
  · exact answers_of_meaning wellFormed idle commonAscii rfl id rfl rfl
  · exact answers_of_meaning wellFormed idle commonNack rfl id rfl rfl

/-- Settles O39: the three rules are one gate, each with its own reason code. -/
theorem bootModeGatesEraseAndPingAndJump : Obligations.BootModeGatesEraseAndPingAndJump := by
  intro s q d wellFormed idle
  refine ⟨fun erase => ?_, fun ping => ?_, fun jump => ?_⟩
  · exact answers_of_replyInBootMode wellFormed idle erase rfl id rfl
  · exact answers_of_replyInBootMode wellFormed idle ping rfl id rfl
  · exact answers_of_replyInBootMode wellFormed idle jump rfl id rfl

end Sys2Proof.Machine
end

section
/-! Proofs of the family 42_reply_demux.md, continued: what REPLY_GEN depends on (R214). -/

namespace Sys2Proof

/-- A 16-bit value is determined by its two bytes. -/
theorem u16_eq_of_bytes_eq {v w : U16} (low : v.extractLsb' 0 8 = w.extractLsb' 0 8)
    (high : v.extractLsb' 8 8 = w.extractLsb' 8 8) : v = w := by
  rw [← ofNat_leValue_u16 v, low, high, ofNat_leValue_u16]

/-- Two bytes assembled to a 16-bit value are its bytes. -/
theorem leBytes_leValue_u16 (lo hi : Byte) :
    leBytes 2 (BitVec.ofNat 16 (leValue [lo, hi])).toNat = [lo, hi] := by
  have fits : leValue [lo, hi] < 2 ^ 16 := lt_of_lt_of_eq (leValue_lt [lo, hi]) (by norm_num)
  rw [BitVec.toNat_ofNat, Nat.mod_eq_of_lt fits]
  exact leBytes_leValue [lo, hi]

/-- The addressing byte determines both of its nibbles. -/
theorem packAddr_inj {src dst src' dst' : U4} (h : packAddr src dst = packAddr src' dst') :
    src = src' ∧ dst = dst' :=
  ⟨by rw [← hi4_packAddr src dst, h, hi4_packAddr],
    by rw [← lo4_packAddr src dst, h, lo4_packAddr]⟩

end Sys2Proof

namespace Sys2Proof.Machine

/-! ### A completed reception holds a request -/

/-- Bytes with the two markers, a length byte of 6 or more and the total length it declares are the
frame of some request. -/
theorem frameOf_of_bytes {c : Cfg} {bytes : List Byte} {len : Byte}
    (startA : bytes[offStartA]? = some c.startA) (startB : bytes[offStartB]? = some c.startB)
    (third : bytes[offLen]? = some len) (atLeast : lenMin ≤ len.toNat)
    (whole : bytes.length = len.toNat + overhead) :
    ∃ op q, q.payload.length ≤ pldMax ∧ frameOf c op q = bytes := by
  match bytes with
  | a :: b :: l :: h0 :: h1 :: m0 :: m1 :: addr :: op :: payload =>
    obtain rfl : a = c.startA := Option.some.inj startA
    obtain rfl : b = c.startB := Option.some.inj startB
    obtain rfl : l = len := Option.some.inj third
    have declared : payload.length = pldLen l := by
      simp only [List.length_cons, overhead] at whole
      simp only [pldLen, hdrCounted]
      omega
    refine ⟨op, { hwid := BitVec.ofNat 16 (leValue [h0, h1])
                  msgid := BitVec.ofNat 16 (leValue [m0, m1])
                  src := hi4 addr
                  dst := lo4 addr
                  payload := payload }, declared ▸ pldLen_le l, ?_⟩
    rw [frameOf, declared, lenByte_pldLen atLeast, packAddr_nibbles, leBytes_leValue_u16,
      leBytes_leValue_u16]
    rfl
  | [] | [_] | [_, _] | [_, _, _] | [_, _, _, _] | [_, _, _, _, _] | [_, _, _, _, _, _]
  | [_, _, _, _, _, _, _] | [_, _, _, _, _, _, _, _] =>
    simp only [List.length_cons, List.length_nil, lenMin, overhead] at whole atLeast
    omega

/-- Under the invariant a completed reception is a request (R36 (a) to (d)). -/
theorem FdInv.holdsRequest {s : State} (inv : FdInv s) (complete : s.rxState = .complete) :
    ∃ op q, HoldsRequest s op q := by
  obtain ⟨len, third, atLeast⟩ := inv.len (complete ▸ by decide)
  have startA := inv.startA (complete ▸ by decide)
  have startB := inv.startB (complete ▸ by decide)
  have held : HoldsPrefix s.rx (len.toNat + overhead) := by
    simpa only [rxPrefix, complete, third] using inv.held
  obtain ⟨bytes, read⟩ := holdsPrefix_read held le_rfl
  obtain ⟨whole, stands⟩ := bufReadAll_eq_some.1 read
  have at_offset {k : Nat} (inside : k < offPld) : bytes[k]? = bufRead s.rx k := by
    rw [← stands k (by simp only [whole, overhead, offPld, lenMin] at *; omega), Nat.zero_add]
  obtain ⟨op, q, legal, spelled⟩ := frameOf_of_bytes
    ((at_offset (by decide)).trans startA) ((at_offset (by decide)).trans startB)
    ((at_offset (by decide)).trans third) atLeast whole
  exact ⟨op, q, complete, legal, spelled ▸ stands⟩

/-! ### Requests that agree in the bytes REPLY_GEN reads -/

/-- Two requests agree in the ids, the addressing, the payload's length and its first four bytes: in
all that `RX[2..7]` and `RX[9..12]` hold. -/
structure SameHead (q q' : Request) : Prop where
  hwid : q'.hwid = q.hwid
  msgid : q'.msgid = q.msgid
  src : q'.src = q.src
  dst : q'.dst = q.dst
  length : q'.payload.length = q.payload.length
  first : q'.payload.take delayLen = q.payload.take delayLen

/-- A held request's frame at an offset is the byte of `RX` there. -/
theorem HoldsRequest.frame_getElem? {s : State} {op : Byte} {q : Request}
    (held : HoldsRequest s op q) {k : Nat} (inside : k < offPld + q.payload.length) :
    (frameOf s.cfg op q)[k]? = bufRead s.rx k := by
  obtain ⟨-, -, stands⟩ := held
  rw [← stands k (by rwa [frameOf_length]), Nat.zero_add]

theorem frameOf_payload_getElem? (c : Cfg) (op : Byte) (q : Request) (k : Nat) :
    (frameOf c op q)[offPld + k]? = q.payload[k]? := by
  rw [frameOf_eq, Nat.add_comm]
  rfl

/-- Receive buffers that agree at offsets 2 to 12 hold requests of one opcode that agree there. -/
theorem sameHead_of_agree {s s' : State} {op op' : Byte} {q q' : Request}
    (held : HoldsRequest s op q) (held' : HoldsRequest s' op' q')
    (agree : ∀ a, 2 ≤ a → a ≤ 12 → bufRead s'.rx a = bufRead s.rx a) :
    op' = op ∧ SameHead q q' := by
  have header {k : Nat} (low : 2 ≤ k) (high : k < offPld) :
      (frameOf s'.cfg op' q')[k]? = (frameOf s.cfg op q)[k]? := by
    simp only [offPld] at high
    rw [held.frame_getElem? (by simp only [offPld]; omega),
      held'.frame_getElem? (by simp only [offPld]; omega), agree k low (by omega)]
  simp only [frameOf_eq] at header
  have len : lenByte q'.payload.length = lenByte q.payload.length :=
    Option.some.inj (header (k := 2) (by decide) (by decide))
  have length : q'.payload.length = q.payload.length := by
    rw [← pldLen_lenByte held.legal, ← pldLen_lenByte held'.legal, len]
  have addr : packAddr q'.src q'.dst = packAddr q.src q.dst :=
    Option.some.inj (header (k := 7) (by decide) (by decide))
  obtain ⟨src, dst⟩ := packAddr_inj addr
  refine ⟨Option.some.inj (header (k := 8) (by decide) (by decide)), ?_⟩
  exact {
    hwid := u16_eq_of_bytes_eq (Option.some.inj (header (k := 3) (by decide) (by decide)))
      (Option.some.inj (header (k := 4) (by decide) (by decide)))
    msgid := u16_eq_of_bytes_eq (Option.some.inj (header (k := 5) (by decide) (by decide)))
      (Option.some.inj (header (k := 6) (by decide) (by decide)))
    src := src
    dst := dst
    length := length
    first := by
      apply List.ext_getElem?
      intro k
      by_cases inside : k < delayLen ∧ k < q.payload.length
      · obtain ⟨near, short⟩ := inside
        simp only [delayLen] at near
        rw [List.getElem?_take_of_lt near, List.getElem?_take_of_lt near,
          ← frameOf_payload_getElem? s'.cfg op' q', ← frameOf_payload_getElem? s.cfg op q,
          held'.frame_getElem? (by omega), held.frame_getElem? (by omega)]
        exact agree _ (by simp only [offPld]; omega) (by simp only [offPld]; omega)
      · rw [List.getElem?_eq_none (by rw [List.length_take]; omega),
          List.getElem?_eq_none (by rw [List.length_take]; omega)] }

/-! ### Two runs with one answer -/

/-- The states agree in all that a reply is made of: the configuration, the two conditions of the
precondition, and the bytes the reply is written over. -/
structure Alike (s s' : State) : Prop where
  cfg : s'.cfg = s.cfg
  rxState : s'.rxState = s.rxState
  rplEmpty : s'.rplEmpty = s.rplEmpty
  rpl : s'.rpl = s.rpl

/-- The two outcomes are one refusal, or one output and guard with, where it is `Replied`, the same
reply bytes. -/
def SameAnswer (s s' : State) (o o' : Outcome) : Prop :=
  (∃ r, o = .refused r ∧ o' = .refused r) ∨
  ∃ r t t', o = .next t ∧ o' = .next t' ∧ Emits (.reply r) s t ∧ Emits (.reply r) s' t' ∧
    t'.rplEmpty = t.rplEmpty ∧ (r = .replied → ∀ a, bufRead t'.rpl a = bufRead t.rpl a)

section
variable {s s' : State} {q q' : Request} {a a' : Outcome}

theorem sameAnswer_refused (r : Refusal) : SameAnswer s s' (.refused r) (.refused r) :=
  .inl ⟨r, rfl, rfl⟩

/-- An outcome other than `Replied`, with nothing else done. -/
theorem sameAnswer_report {r : ReplyOutcome} (rplEmpty : s'.rplEmpty = s.rplEmpty)
    (other : r ≠ .replied) : SameAnswer s s' (done (.reply r) s) (done (.reply r) s') :=
  .inr ⟨r, _, _, rfl, rfl, ⟨rfl, rfl, rfl⟩, ⟨rfl, rfl, rfl⟩, rplEmpty,
    fun replied => absurd replied other⟩

/-- The precondition is the same for both. -/
theorem sameAnswer_invoke (rxState : s'.rxState = s.rxState) (rplEmpty : s'.rplEmpty = s.rplEmpty)
    (ready : s.rxState = .complete → s.rplEmpty = true → SameAnswer s s' a a') :
    SameAnswer s s' (invoke a s) (invoke a' s') := by
  unfold invoke
  rw [rxState, rplEmpty]
  split
  next met => exact ready met.1 met.2
  next => exact sameAnswer_report rplEmpty nofun

theorem SameHead.bounce_eq (head : SameHead q q') (payload : List Byte) :
    bounce q' payload = bounce q payload := by
  simp only [bounce, head.hwid, head.msgid, head.src, head.dst]

variable (alike : Alike s s') (head : SameHead q q')
include alike head

/-- One opcode and payload, written over the same bytes, leave the same bytes. -/
theorem sameAnswer_reply {op op' : Byte} (payload : List Byte) (opcode : op' = op) :
    SameAnswer s s' (reply op payload q s) (reply op' payload q' s') := by
  refine .inr ⟨.replied, _, _, reply_eq op payload q s, reply_eq op' payload q' s',
    ⟨rfl, rfl, rfl⟩, ⟨rfl, rfl, rfl⟩, rfl, fun _ a => ?_⟩
  simp only [emit_rpl, opcode, alike.cfg, alike.rpl, head.bounce_eq]

theorem sameAnswer_replyNack : SameAnswer s s' (replyNack q s) (replyNack q' s') :=
  sameAnswer_reply alike head [] (congrArg Cfg.opcCommonNack alike.cfg)

theorem sameAnswer_replyAck : SameAnswer s s' (replyAck q s) (replyAck q' s') :=
  sameAnswer_reply alike head [] (congrArg Cfg.opcCommonAck alike.cfg)

theorem sameAnswer_replyInBootMode {reason reason' : Byte} (same : reason' = reason)
    (d : DeviceState) :
    SameAnswer s s' (replyInBootMode reason q d s) (replyInBootMode reason' q' d s') := by
  unfold replyInBootMode
  split
  · exact same ▸ sameAnswer_reply alike head [reason'] (congrArg Cfg.opcBootloaderAck alike.cfg)
  · exact sameAnswer_replyNack alike head

theorem sameAnswer_unrecognizedReply :
    SameAnswer s s' (unrecognizedReply q s) (unrecognizedReply q' s') := by
  unfold unrecognizedReply
  rw [alike.cfg]
  cases s.cfg.unrecognizedPolicy
  case noReply => exact sameAnswer_report alike.rplEmpty nofun
  case nack => exact sameAnswer_replyNack alike head

end

/-! ### The rows that read the payload or the device state -/

section
variable {s s' : State} {q q' : Request} (alike : Alike s s') (head : SameHead q q')
include alike head

theorem sameAnswer_getTime (d : DeviceState) :
    SameAnswer s s' (execGetTime q d s) (execGetTime q' d s') := by
  refine sameAnswer_invoke alike.rxState alike.rplEmpty fun _ _ => ?_
  split
  · exact sameAnswer_reply alike head _ (congrArg Cfg.opcSetTime alike.cfg)
  · exact sameAnswer_replyNack alike head

/-- The delay is read only where it is the whole payload, four bytes (R198). -/
theorem sameAnswer_reboot : SameAnswer s s' (execReboot q s) (execReboot q' s') := by
  refine sameAnswer_invoke alike.rxState alike.rplEmpty fun _ _ => ?_
  rw [head.length]
  split
  · exact sameAnswer_replyAck alike head
  split
  next four =>
    have delay : q'.payload = q.payload := by
      rw [← List.take_of_length_le four.le, ← head.first,
        List.take_of_length_le (head.length.trans four).le]
    rw [delay, alike.cfg]
    split
    · exact sameAnswer_replyAck alike head
    · exact sameAnswer_replyNack alike head
  next => exact sameAnswer_refused _

/-- Of the payload only the first byte is read, and whether there is one (R204). -/
theorem sameAnswer_bootloaderWritePage (d : DeviceState) :
    SameAnswer s s' (execBootloaderWritePage q d s) (execBootloaderWritePage q' d s') := by
  refine sameAnswer_invoke alike.rxState alike.rplEmpty fun _ _ => ?_
  split
  · split
    · have first := head.first
      match payload : q.payload, payload' : q'.payload with
      | [], [] => exact sameAnswer_refused _
      | page :: _, page' :: _ =>
        obtain rfl : page' = page := by
          rw [payload, payload'] at first
          exact (List.cons.inj first).1
        exact sameAnswer_reply alike head [page'] (congrArg Cfg.opcBootloaderAck alike.cfg)
      | [], _ :: _ | _ :: _, [] => exact absurd head.length (by simp [payload, payload'])
    · exact sameAnswer_reply alike head [] (congrArg Cfg.opcBootloaderNack alike.cfg)
  · exact sameAnswer_replyNack alike head

/-! ### Every row -/

/-- Requests with one opcode that agree in the bytes REPLY_GEN reads have one answer in states that
are alike. -/
theorem sameAnswer_instrOf (c : Cfg) (op : Byte) (d : DeviceState) :
    SameAnswer s s' (exec (instrOf c op q d) s) (exec (instrOf c op q' d) s') := by
  have row {a a' : Outcome} (same : SameAnswer s s' a a') :
      SameAnswer s s' (invoke a s) (invoke a' s') :=
    sameAnswer_invoke alike.rxState alike.rplEmpty fun _ _ => same
  apply instrOf_ind₂ (fun i i' => SameAnswer s s' (exec i s) (exec i' s'))
  case bootloaderPing =>
    exact row (sameAnswer_replyInBootMode alike head (congrArg Cfg.reasonPong alike.cfg) d)
  case bootloaderErase =>
    exact row (sameAnswer_replyInBootMode alike head (congrArg Cfg.reasonErased alike.cfg) d)
  case bootloaderJump =>
    exact row (sameAnswer_replyInBootMode alike head (congrArg Cfg.reasonJump alike.cfg) d)
  case bootloaderWritePage => exact sameAnswer_bootloaderWritePage alike head d
  case reboot => exact sameAnswer_reboot alike head
  case getTime => exact sameAnswer_getTime alike head d
  case getTelemetry =>
    exact row (sameAnswer_reply alike head _ (congrArg Cfg.opcTelemetryReport alike.cfg))
  case setTime | commonAck => exact row (sameAnswer_replyAck alike head)
  case telemetryReport | bootloaderAck | bootloaderNack | commonAscii | commonNack =>
    exact row (sameAnswer_replyNack alike head)
  case dataRecord | unrecognized => exact row (sameAnswer_unrecognizedReply alike head)

end

/-- Settles O45: in both states the precondition is the same, and where it is met no reply is
pending, so `RPL` is empty in both, and `RX` holds two requests that agree in the bytes read. -/
theorem replyGenDependsOnTheRequestAlone : Obligations.ReplyGenDependsOnTheRequestAlone := by
  intro s s' d inv inv' cfg rxState rplEmpty agree
  suffices SameAnswer s s' (execReplyGen d s) (execReplyGen d s') from this
  refine sameAnswer_invoke rxState rplEmpty fun complete idle => ?_
  obtain ⟨op, q, held⟩ := inv.fd.holdsRequest complete
  obtain ⟨op', q', held'⟩ := inv'.fd.holdsRequest (rxState.trans complete)
  obtain ⟨rfl, head⟩ := sameHead_of_agree held held' agree
  have rpl : s'.rpl = s.rpl := by
    rw [inv.rd.empty idle, inv'.rd.empty (rplEmpty.trans idle)]
  simp only [fetchRequest_of_holds held d, fetchRequest_of_holds held' d,
    answer_eq_exec _ (isOperation_instrOf _ _ _ _), cfg]
  exact sameAnswer_instrOf ⟨cfg, rxState, rplEmpty, rpl⟩ head s.cfg op' d

end Sys2Proof.Machine
end

section
/-! Proofs of the family 30_encoding.md, continued: decoding and encoding are inverse to each other,
the words of the opcode table, and the little-endian store. -/

namespace Sys2Proof

/-! ### Decoding what was encoded -/

/-- Decoding reads one frame and leaves whatever follows it (R82). -/
theorem decode_frameOf_append (c : Cfg) (d : DeviceState) (op : Byte) {q : Request}
    (tail : List Byte) (legal : q.payload.length ≤ pldMax) :
    decode c d (frameOf c op q ++ tail) = .ok (instrOf c op q d, tail) := by
  have atLeast : ¬ (lenByte q.payload.length).toNat < lenMin := by
    rw [lenByte_toNat legal, hdrCounted, lenMin]
    omega
  have room : ¬ (q.payload ++ tail).length < q.payload.length := by
    rw [List.length_append]
    omega
  simp only [frameOf_eq, List.cons_append, decode, ne_eq, not_true_eq_false, if_false,
    if_neg atLeast, if_neg room, pldLen_lenByte legal, List.take_left, List.drop_left,
    ofNat_leValue_u16, hi4_packAddr, lo4_packAddr]

theorem encode_eq_frameOf {c : Cfg} {i : Instr} {op : Byte} {q : Request} {d : DeviceState}
    (spelled : i.request c = some (op, q, d)) : encode c i = some (frameOf c op q) := by
  rw [encode, spelled, Option.map_some]

/-- A well-formed request frame has a payload of at most 249 bytes, whatever its row (R88). -/
theorem payload_le_of_wellFormed {c : Cfg} {i : Instr} {op : Byte} {q : Request} {d : DeviceState}
    (legal : i.wellFormed c = true) (spelled : i.request c = some (op, q, d)) :
    q.payload.length ≤ pldMax := by
  suffices q.wellFormed = true from of_decide_eq_true this
  cases i <;> cases spelled
  case unrecognized =>
    obtain ⟨fits, -⟩ := Bool.and_eq_true_iff.1 legal
    exact fits
  all_goals exact legal

/-- Settles O1: the frame's bytes are decoded to the row its opcode byte selects, and under a
well-formed configuration that row is the frame's own. -/
theorem decodeOfEncodeGivesTheRequestBack : Obligations.DecodeOfEncodeGivesTheRequestBack := by
  intro c i op q d bytes tail wellFormed legal spelled encoded
  obtain rfl : frameOf c op q = bytes :=
    Option.some.inj ((encode_eq_frameOf spelled).symm.trans encoded)
  rw [decode_frameOf_append c d op tail (payload_le_of_wellFormed legal spelled),
    instrOf_of_request wellFormed legal spelled]

/-! ### Encoding what was decoded -/

theorem wellFormed_instrOf (c : Cfg) (op : Byte) {q : Request} (d : DeviceState)
    (legal : q.payload.length ≤ pldMax) : (instrOf c op q d).wellFormed c = true := by
  have fits : q.wellFormed = true := decide_eq_true legal
  apply instrOf_ind (fun i => i.wellFormed c = true)
  case unrecognized =>
    intro unnamed
    simpa [Instr.wellFormed, fits] using unnamed
  all_goals exact fun _ => fits

/-- What the decoder accepts begins with the frame of a legal request, and it answers the row of
that frame's opcode byte. -/
theorem decode_ok_frameOf {c : Cfg} {d : DeviceState} {bytes rest : List Byte} {i : Instr}
    (h : decode c d bytes = .ok (i, rest)) :
    ∃ op q, q.payload.length ≤ pldMax ∧ i = instrOf c op q d ∧ bytes = frameOf c op q ++ rest := by
  obtain ⟨len, h0, h1, m0, m1, addr, op, payload, atLeast, declared, spelled, row⟩ := decode_ok h
  refine ⟨op, _, declared ▸ pldLen_le len, row, ?_⟩
  rw [spelled, frameOf, declared, lenByte_pldLen atLeast, leBytes_leValue_u16, leBytes_leValue_u16,
    packAddr_nibbles]
  simp

/-- Settles O2: the answer is the row of a legal frame, and the bytes begin with that frame. -/
theorem encodeOfDecodeGivesTheBytesBack : Obligations.EncodeOfDecodeGivesTheBytesBack := by
  intro c d bytes rest i decoded
  obtain ⟨op, q, legal, rfl, spelled⟩ := decode_ok_frameOf decoded
  exact ⟨wellFormed_instrOf c op d legal, isOperation_instrOf c op q d, frameOf c op q,
    encode_eq_frameOf (request_instrOf c op q d), spelled⟩

/-! ### The words of the opcode table -/

/-- The fields of a table word's frame, which the word gives no bits (log 13). -/
def blankRequest : Request := { hwid := 0, msgid := 0, src := 0, dst := 0, payload := [] }

theorem tableFrame_opcode (c : Cfg) (w : Nat) :
    tableFrame c 8 w = frameOf c (BitVec.ofNat 8 w) blankRequest := rfl

/-- An 8-bit word of the table is the opcode byte of a frame with empty fields. -/
theorem decodeTableWord_opcode (w : Nat) :
    decodeTableWord 8 w
      = some (instrOf Cfg0 (BitVec.ofNat 8 w) blankRequest DeviceState.zero) := by
  have empty : blankRequest.payload.length ≤ pldMax := Nat.zero_le pldMax
  rw [decodeTableWord, tableFrame_opcode, decode_frameOf _ _ _ empty]

/-- Settles O4: each word's opcode byte selects its row under `Cfg0`. -/
theorem tableWordsDecodeToTheirRows : Obligations.TableWordsDecodeToTheirRows := by
  simp only [Obligations.TableWordsDecodeToTheirRows, decodeTableWord_opcode]
  decide

end Sys2Proof

namespace Sys2Proof.Machine

/-! ### The little-endian store -/

/-- The bytes that stand at an offset are what `MemRead` assembles. -/
theorem memRead_of_stands {b : Buffer} {off : Nat} {l : List Byte} (h : Stands b off l) :
    memRead b off l.length = some (leValue l) := by
  rw [memRead, bufReadAll_eq_some.2 ⟨rfl, h⟩, Option.map_some]

theorem stands_memWrite (b : Buffer) (off n v : Nat) :
    Stands (memWrite b off n v) off (leBytes n v) :=
  stands_bufWriteAll b off (leBytes n v)

/-- Settles O6: the bytes stored stand at the offset, and assembling them gives the low `8n`
bits. -/
theorem littleEndianStoreReadsBack : Obligations.LittleEndianStoreReadsBack := by
  intro b off n v
  have stored := stands_memWrite b off n v
  refine ⟨?_, ?_, fun k inside => ?_⟩
  · have read := memRead_of_stands stored
    rwa [leBytes_length, leValue_leBytes] at read
  · have outside := sameOutside_bufWriteAll b off (leBytes n v)
    rwa [leBytes_length] at outside
  · rw [stored k (by rwa [leBytes_length]), leBytes_getElem? n v k inside]

end Sys2Proof.Machine
end

section
/-! Proofs about the step, and about the operations that only report or only drop: RESET, STATUS,
RX_READ, the two serializers, RPL_CLEAR, and REPLY_GEN outside its precondition. -/

namespace Sys2Proof.Machine

/-! ### The step -/

/-- With an operation of the host first in the list, a step performs it (R8). -/
theorem step_of_host {s : State} {i : Instr} {rest : List Instr} (issued : s.host = i :: rest)
    (operation : i.isOperation = true) : step s = exec i { s with host := rest } := by
  simp only [step, fetch_cons issued, operation, if_true]

/-- Settles O7: what `fetch` yields is the first operation, with the others left to be issued. -/
theorem stepPerformsTheNextOperation : Obligations.StepPerformsTheNextOperation :=
  fun _ _ _ issued operation => step_of_host issued operation

/-- Settles O9: there is nothing to fetch. -/
theorem stepWithoutOperationChangesNothing : Obligations.StepWithoutOperationChangesNothing := by
  intro s idle
  rw [step, fetch_nil idle]

/-- What `RX` spells, where it decodes, is the frame of a legal request, and the row decoded is that
of its opcode byte. -/
theorem holdsRequest_of_decode {s : State} {d : DeviceState} {bytes rest : List Byte} {i : Instr}
    (complete : s.rxState = .complete) (whole : FrameIn s.rx bytes)
    (decoded : decode s.cfg d bytes = .ok (i, rest)) :
    ∃ op q, HoldsRequest s op q ∧ i = instrOf s.cfg op q d := by
  obtain ⟨op, q, legal, row, spelled⟩ := decode_ok_frameOf decoded
  obtain ⟨stands, -⟩ := whole
  refine ⟨op, q, ⟨complete, legal, fun k inside => ?_⟩, row⟩
  rw [stands k (by rw [spelled, List.length_append]; omega), spelled,
    List.getElem?_append_left inside]

/-- Settles O8: the step performs REPLY_GEN, and REPLY_GEN runs the row of the request in `RX`. -/
theorem stepRunsTheDecodedRequest : Obligations.StepRunsTheDecodedRequest := by
  intro s d rest bytes tail i issued complete idle whole decoded
  obtain ⟨op, q, held, rfl⟩ :=
    holdsRequest_of_decode (s := { s with host := rest }) complete whole decoded
  rw [step_of_host issued rfl]
  exact exec_replyGen_of_holds held idle d

/-! ### Operations that only report -/

/-- An operation that records its output and does nothing else leaves the block as it was. -/
theorem reports_of_exec {i : Instr} {o : Output} {s : State} (h : exec i s = .next (emit o s)) :
    ∃ t, exec i s = .next t ∧ SameFd s t ∧ SameCe s t ∧ SameRd s t ∧ Emits o s t :=
  ⟨_, h, done_emits rfl⟩

theorem exec_status (s : State) : exec .status s = .next (emit (statusOutput s) s) := rfl

/-- Settles O11: the triple is the output, and recording it is all that happens. -/
theorem statusReportsTheThreeFlags : Obligations.StatusReportsTheThreeFlags :=
  fun s => reports_of_exec (exec_status s)

theorem exec_rxRead_complete {s : State} {bytes : List Byte} (complete : s.rxState = .complete)
    (whole : FrameIn s.rx bytes) : exec .rxRead s = .next (emit (.read (some bytes)) s) := by
  change execRxRead s = _
  simp only [execRxRead, complete, if_true, bufFrame_eq_some.2 whole, done_eq]

theorem exec_rxRead_incomplete {s : State} (incomplete : s.rxState ≠ .complete) :
    exec .rxRead s = .next (emit (.read none) s) := by
  change execRxRead s = _
  simp only [execRxRead, incomplete, if_false, done_eq]

/-- Settles O20: a whole frame can be read, and before completion nothing is. -/
theorem rxReadReturnsTheCompletedFrame : Obligations.RxReadReturnsTheCompletedFrame :=
  fun _ => ⟨fun _ complete whole => reports_of_exec (exec_rxRead_complete complete whole),
    fun incomplete => reports_of_exec (exec_rxRead_incomplete incomplete)⟩

theorem exec_txSerialize_valid {s : State} {bytes : List Byte} (valid : s.cmdValid = true)
    (whole : FrameIn s.cmd bytes) : exec .txSerialize s = .next (emit (.frame bytes) s) := by
  change execTxSerialize s = _
  simp only [execTxSerialize, valid, if_true, bufFrame_eq_some.2 whole, done_eq]

theorem exec_txSerialize_invalid {s : State} (invalid : s.cmdValid = false) :
    exec .txSerialize s = .refused .serializeBeforeNew := by
  change execTxSerialize s = _
  simp only [execTxSerialize, invalid, Bool.false_eq_true, if_false]

/-- Settles O31: a whole valid frame can be output, and without one there is nothing to output. -/
theorem txSerializeOutputsTheCommandFrame : Obligations.TxSerializeOutputsTheCommandFrame :=
  fun _ => ⟨fun _ valid whole => reports_of_exec (exec_txSerialize_valid valid whole),
    exec_txSerialize_invalid⟩

theorem exec_rplSerialize_pending {s : State} {bytes : List Byte} (pending : s.rplEmpty = false)
    (whole : FrameIn s.rpl bytes) : exec .rplSerialize s = .next (emit (.frame bytes) s) := by
  change execRplSerialize s = _
  simp only [execRplSerialize, pending, Bool.false_eq_true, if_false, bufFrame_eq_some.2 whole,
    done_eq]

theorem exec_rplSerialize_idle {s : State} (idle : s.rplEmpty = true) :
    exec .rplSerialize s = .next (emit (.frame []) s) := by
  change execRplSerialize s = _
  simp only [execRplSerialize, idle, if_true, done_eq]

/-- Settles O46: a whole pending reply can be output, and the guard is only read. -/
theorem rplSerializeOutputsThePendingReply : Obligations.RplSerializeOutputsThePendingReply :=
  fun _ => ⟨fun _ pending whole => reports_of_exec (exec_rplSerialize_pending pending whole),
    fun idle => reports_of_exec (exec_rplSerialize_idle idle)⟩

theorem exec_replyGen_notReady {s : State} (d : DeviceState)
    (notReady : s.rxState ≠ .complete ∨ s.rplEmpty = false) :
    exec (.replyGen d) s = .next (emit (.reply .notInvoked) s) :=
  invoke_notReady _ notReady

/-- Settles O42: the precondition is checked before `RX` is read. -/
theorem replyGenOutsideItsPreconditionIsNotInvoked :
    Obligations.ReplyGenOutsideItsPreconditionIsNotInvoked :=
  fun _ d notReady => reports_of_exec (exec_replyGen_notReady d notReady)

/-! ### Operations that drop -/

/-- What RESET leaves of the block: nothing held in any buffer, every flag at its reset value. -/
def resetBlock (s : State) : State :=
  { dropReply (discard s) with cmd := [], cmdValid := false }

section
variable (s : State)

@[simp] theorem resetBlock_cfg : (resetBlock s).cfg = s.cfg := rfl
@[simp] theorem resetBlock_rxState : (resetBlock s).rxState = .awaitStart0 := rfl
@[simp] theorem resetBlock_rxCnt : (resetBlock s).rxCnt = 0 := rfl
@[simp] theorem resetBlock_rx : (resetBlock s).rx = [] := rfl
@[simp] theorem resetBlock_cmd : (resetBlock s).cmd = [] := rfl
@[simp] theorem resetBlock_cmdValid : (resetBlock s).cmdValid = false := rfl
@[simp] theorem resetBlock_rpl : (resetBlock s).rpl = [] := rfl
@[simp] theorem resetBlock_rplEmpty : (resetBlock s).rplEmpty = true := rfl
@[simp] theorem resetBlock_host : (resetBlock s).host = s.host := rfl
@[simp] theorem resetBlock_outputs : (resetBlock s).outputs = s.outputs := rfl

theorem exec_reset : exec .reset s = .next (emit .nothing (resetBlock s)) := rfl

theorem exec_rplClear : exec .rplClear s = .next (emit .nothing (dropReply s)) := rfl

end

/-- Settles O10: each value is a field of the state RESET leaves. -/
theorem resetLeavesTheResetValues : Obligations.ResetLeavesTheResetValues := by
  intro s
  have emitted : Emits .nothing s (emit .nothing (resetBlock s)) := by simp [Emits]
  exact ⟨_, exec_reset s, resetBlock_rxState s, resetBlock_rxCnt s, resetBlock_cmdValid s,
    resetBlock_rplEmpty s, fun a => ⟨bufRead_nil a, bufRead_nil a, bufRead_nil a⟩, emitted⟩

/-- Settles O47: the next state is `dropReply`'s. -/
theorem rplClearDropsTheReply : Obligations.RplClearDropsTheReply := by
  intro s
  have emitted : Emits .nothing s (emit .nothing (dropReply s)) := by simp [Emits]
  exact ⟨_, exec_rplClear s, dropReply_rplEmpty s, bufRead_nil, ⟨rfl, rfl, rfl⟩, ⟨rfl, rfl⟩,
    emitted⟩

end Sys2Proof.Machine
end

section
/-! Proofs of the family 40_frame_decoder.md, continued: what one received byte does in every state,
and the bytes of a frame, or of noise, fed to the decoder. -/

namespace Sys2Proof.Machine

/-! ### What one received byte does -/

/-- The places at which RX_BYTE stores its byte `b`: the offset, the state that follows and the
counter it leaves (R122 to R131). -/
inductive RxStores (s : State) (b : Byte) : Nat → RxState → Nat → Prop
  | startA (state : s.rxState = .awaitStart0) (mark : b = s.cfg.startA) :
      RxStores s b offStartA .awaitStart1 s.rxCnt
  | startB (state : s.rxState = .awaitStart1) (mark : b = s.cfg.startB) :
      RxStores s b offStartB .awaitLength s.rxCnt
  | length (state : s.rxState = .awaitLength) (legal : lenMin ≤ b.toNat) :
      RxStores s b offLen .hwidLsb 0
  | header {off : Nat} {next : RxState} (place : headerPlace s.rxState = some (off, next)) :
      RxStores s b off next s.rxCnt
  | opcode {len : Byte} (state : s.rxState = .opcode) (held : bufRead s.rx offLen = some len)
      (declared : 0 < pldLen len) : RxStores s b offOpcode .payload 0
  | lastOpcode {len : Byte} (state : s.rxState = .opcode) (held : bufRead s.rx offLen = some len)
      (empty : pldLen len = 0) : RxStores s b offOpcode .complete s.rxCnt
  | payload {len : Byte} (state : s.rxState = .payload) (held : bufRead s.rx offLen = some len)
      (inside : offPld + s.rxCnt < frameMax) :
      RxStores s b (offPld + s.rxCnt)
        (if s.rxCnt + 1 = pldLen len then .complete else .payload) (s.rxCnt + 1)

/-- The bytes that end a reception: no second marker where one is due, or too small a length. -/
def RxMismatch (s : State) (b : Byte) : Prop :=
  s.rxState = .awaitStart1 ∧ b ≠ s.cfg.startB ∨ s.rxState = .awaitLength ∧ b.toNat < lenMin

/-- All that RX_BYTE can do (R121). -/
inductive RxEffect (s : State) (b : Byte) : State → Prop
  | noise (state : s.rxState = .awaitStart0) (other : b ≠ s.cfg.startA) :
      RxEffect s b (emit (.consumed true) s)
  | discards (mismatch : RxMismatch s b) : RxEffect s b (emit (.consumed true) (discard s))
  | declines (state : s.rxState = .complete) : RxEffect s b (emit (.consumed false) s)
  | stores {off : Nat} {next : RxState} {cnt : Nat} (place : RxStores s b off next cnt) :
      RxEffect s b (rxStored off b next cnt s)

section
variable {s t : State} {b : Byte}

theorem viewPldLen_eq_some {buf : Buffer} {n : Nat} (h : viewPldLen buf = some n) :
    ∃ len, bufRead buf offLen = some len ∧ pldLen len = n :=
  Option.map_eq_some_iff.1 h

/-- RX_BYTE completes only by one of its effects. -/
theorem rxEffect_of_exec (h : exec (.rxByte b) s = .next t) : RxEffect s b t := by
  rw [exec_rxByte, execRxByte] at h
  cases state : s.rxState <;> simp only [state] at h
  case awaitStart0 =>
    cases h
    by_cases mark : b = s.cfg.startA
    · rw [rxAwaitStart0, if_pos mark]
      exact .stores (.startA state mark)
    · rw [rxAwaitStart0, if_neg mark]
      exact .noise state mark
  case awaitStart1 =>
    cases h
    by_cases mark : b = s.cfg.startB
    · rw [rxAwaitStart1, if_pos mark]
      exact .stores (.startB state mark)
    · rw [rxAwaitStart1, if_neg mark]
      exact .discards (.inl ⟨state, mark⟩)
  case awaitLength =>
    cases h
    by_cases legal : lenMin ≤ b.toNat
    · rw [rxAwaitLength, if_pos legal]
      exact .stores (.length state legal)
    · rw [rxAwaitLength, if_neg legal]
      exact .discards (.inr ⟨state, not_le.1 legal⟩)
  case hwidLsb | hwidMsb | msgIdLsb | msgIdMsb | destId =>
    cases h
    exact .stores (.header (congrArg headerPlace state))
  case opcode =>
    rw [rxOpcode] at h
    split at h
    next => cases h
    next n view =>
      obtain ⟨len, held, rfl⟩ := viewPldLen_eq_some view
      split at h <;> cases h
      next declared => exact .stores (.opcode state held declared)
      next empty => exact .stores (.lastOpcode state held (Nat.eq_zero_of_not_pos empty))
  case payload =>
    rw [rxPayload] at h
    split at h
    next => cases h
    next n view =>
      obtain ⟨len, held, rfl⟩ := viewPldLen_eq_some view
      split at h <;> cases h
      next inside => exact .stores (.payload state held inside)
  case complete =>
    cases h
    exact .declines state

theorem exec_rxByte_stores {off : Nat} {next : RxState} {cnt : Nat}
    (place : RxStores s b off next cnt) :
    exec (.rxByte b) s = .next (rxStored off b next cnt s) := by
  cases place with
  | startA state mark | startB state mark =>
    simp only [exec_rxByte, execRxByte, state, rxAwaitStart0, rxAwaitStart1, if_pos mark]
    rfl
  | length state legal =>
    simp only [exec_rxByte, execRxByte, state, rxAwaitLength, if_pos legal]
    rfl
  | header place => exact exec_rxByte_header b place
  | opcode state held declared => exact exec_rxByte_opcode_payload b state held declared
  | lastOpcode state held empty => exact exec_rxByte_opcode_empty b state held empty
  | payload state held inside =>
    simp only [exec_rxByte, execRxByte, state, rxPayload, viewPldLen_eq held, if_pos inside]
    rfl

theorem exec_rxByte_discards (mismatch : RxMismatch s b) :
    exec (.rxByte b) s = .next (emit (.consumed true) (discard s)) := by
  rcases mismatch with ⟨state, other⟩ | ⟨state, short⟩
  · simp only [exec_rxByte, execRxByte, state, rxAwaitStart1, if_neg other, done_eq]
  · simp only [exec_rxByte, execRxByte, state, rxAwaitLength, if_neg (not_le.2 short), done_eq]

theorem exec_rxByte_noise (state : s.rxState = .awaitStart0) (other : b ≠ s.cfg.startA) :
    exec (.rxByte b) s = .next (emit (.consumed true) s) := by
  simp only [exec_rxByte, execRxByte, state, rxAwaitStart0, if_neg other, done_eq]

theorem exec_rxByte_declines (state : s.rxState = .complete) :
    exec (.rxByte b) s = .next (emit (.consumed false) s) := by
  simp only [exec_rxByte, execRxByte, state, done_eq]

/-- A discarded reception leaves no byte of `RX`, and nothing else is touched. -/
theorem exec_rxByte_mismatch (mismatch : RxMismatch s b) :
    ∃ t, exec (.rxByte b) s = .next t ∧ t.rxState = .awaitStart0 ∧ t.rxCnt = 0 ∧
      (∀ a, bufRead t.rx a = none) ∧ SameCe s t ∧ SameRd s t ∧ Emits (.consumed true) s t :=
  ⟨_, exec_rxByte_discards mismatch, rfl, rfl, bufRead_rx_discard s, sameCe_discard s,
    sameRd_discard s, rfl, rfl, rfl⟩

end

/-! ### The states before the header -/

/-- Settles O13: the first marker is stored, and any other byte is noise. -/
theorem awaitStart0AcceptsOnlyTheFirstMarker :
    Obligations.AwaitStart0AcceptsOnlyTheFirstMarker := by
  intro s b state
  by_cases mark : b = s.cfg.startA
  · exact ⟨_, exec_rxByte_stores (.startA state mark), rfl,
      fun _ => ⟨rfl, bufRead_rxStored, sameOutside_rxStored⟩, fun other => absurd mark other,
      sameCe_rxStored, sameRd_rxStored, emits_rxStored⟩
  · obtain ⟨t, next, ⟨rx, idle, cnt⟩, frame⟩ := reports_of_exec (exec_rxByte_noise state mark)
    exact ⟨t, next, cnt, fun isMark => absurd isMark mark, fun _ => ⟨rx, idle, cnt⟩, frame⟩

/-- Settles O14: the second marker is stored, and any other byte is a mismatch. -/
theorem awaitStart1AdvancesOrResynchronises : Obligations.AwaitStart1AdvancesOrResynchronises := by
  intro s b state
  by_cases mark : b = s.cfg.startB
  · exact ⟨_, exec_rxByte_stores (.startB state mark),
      fun _ => ⟨rfl, bufRead_rxStored, sameOutside_rxStored, rfl⟩, fun other => absurd mark other,
      sameCe_rxStored, sameRd_rxStored, emits_rxStored⟩
  · obtain ⟨t, next, idle, cnt, cleared, frame⟩ := exec_rxByte_mismatch (.inl ⟨state, mark⟩)
    exact ⟨t, next, fun isMark => absurd isMark mark, fun _ => ⟨idle, cnt, cleared⟩, frame⟩

/-- Settles O15: a legal length byte is stored and declares its payload, and a lesser one is a
mismatch. -/
theorem awaitLengthAcceptsSixAndAbove : Obligations.AwaitLengthAcceptsSixAndAbove := by
  intro s b state
  rcases Nat.lt_or_ge b.toNat lenMin with short | legal
  · obtain ⟨t, next, idle, cnt, cleared, frame⟩ := exec_rxByte_mismatch (.inr ⟨state, short⟩)
    exact ⟨t, next, cnt, fun legal => absurd short (not_lt.2 legal), fun _ => ⟨idle, cleared⟩,
      frame⟩
  · exact ⟨_, exec_rxByte_stores (.length state legal), rfl,
      fun _ => ⟨rfl, bufRead_rxStored, viewPldLen_eq bufRead_rxStored, sameOutside_rxStored⟩,
      fun short => absurd short (not_lt.2 legal), sameCe_rxStored, sameRd_rxStored, emits_rxStored⟩

/-- Settles O19: the byte is declined, and that is all. -/
theorem completeDeclinesFurtherBytes : Obligations.CompleteDeclinesFurtherBytes :=
  fun _ _ state => reports_of_exec (exec_rxByte_declines state)

/-! ### Runs -/

/-- A run of some steps, continued by a run of more. -/
theorem run_add_of_next (M : Host.Core) {j k : Nat} {s t : M.State} (first : M.run j s = .next t) :
    M.run (j + k) s = M.run k t := by
  induction j generalizing s with
  | zero =>
    cases first
    rw [Nat.zero_add]
  | succ j ih =>
    cases stepped : M.step s with
    | next u =>
      rw [run_succ_of_next M stepped] at first
      rw [Nat.add_right_comm, run_succ_of_next M stepped, ih first]
    | fault r => simp [Host.Core.run, stepped] at first
    | refused r => simp [Host.Core.run, stepped] at first

/-- With an operation of the host first in the list, a run begins by performing it. -/
theorem run_succ_of_host {s t : State} {i : Instr} {rest : List Instr} {k : Nat}
    (issued : s.host = i :: rest) (operation : i.isOperation = true)
    (performed : exec i { s with host := rest } = .next t) :
    Sys2Proof.core.run (k + 1) s = Sys2Proof.core.run k t :=
  run_succ_of_next Sys2Proof.core ((step_of_host issued operation).trans performed)

/-! ### Noise -/

/-- Settles O22, by induction on the noise: each byte is consumed and leaves the decoder in
`AwaitStart0`. -/
theorem noiseWithoutTheFirstMarkerLeavesNoTrace :
    Obligations.NoiseWithoutTheFirstMarkerLeavesNoTrace := by
  intro s noise rest state other issued
  induction noise generalizing s with
  | nil => exact ⟨s, rfl, ⟨rfl, rfl, rfl⟩, ⟨rfl, rfl⟩, ⟨rfl, rfl⟩, rfl, issued, rfl⟩
  | cons b noise ih =>
    obtain ⟨first, later⟩ := List.forall_mem_cons.1 other
    let issuing : State := { s with host := noise.map Instr.rxByte ++ rest }
    have heard : exec (.rxByte b) issuing = .next (emit (.consumed true) issuing) :=
      exec_rxByte_noise state first
    obtain ⟨t, run, fd, ce, rd, cfg, host, outputs⟩ :=
      ih (emit (.consumed true) issuing) state later rfl
    refine ⟨t, (run_succ_of_host issued rfl heard).trans run, fd, ce, rd, cfg, host, ?_⟩
    rw [outputs, List.length_cons, List.replicate_succ', List.append_assoc]
    rfl

end Sys2Proof.Machine
end

section
/-! Proofs of the family 40_frame_decoder.md, continued: a whole frame fed to the decoder (R135),
and the round trips of 41_command_encoder.md R173. -/

namespace Sys2Proof.Machine

/-! ### A frame, received so far -/

/-- Bytes with the two markers, a legal length byte and the total length it declares (R80, R81). -/
structure IsFrame (c : Cfg) (frame : List Byte) (len : Byte) : Prop where
  startA : frame[offStartA]? = some c.startA
  startB : frame[offStartB]? = some c.startB
  third : frame[offLen]? = some len
  legal : lenMin ≤ len.toNat
  whole : frame.length = len.toNat + overhead

/-- The decoder's state once `k` bytes of a frame of `total` bytes are received (R135). -/
def rxStateAfter (total : Nat) : Nat → RxState
  | 0 => .awaitStart0
  | 1 => .awaitStart1
  | 2 => .awaitLength
  | 3 => .hwidLsb
  | 4 => .hwidMsb
  | 5 => .msgIdLsb
  | 6 => .msgIdMsb
  | 7 => .destId
  | 8 => .opcode
  | k + 9 => if k + 9 < total then .payload else .complete

theorem rxStateAfter_ne_complete {total k : Nat} (short : k < total) :
    rxStateAfter total k ≠ .complete := by
  unfold rxStateAfter
  split
  case h_10 => simp [short]
  all_goals decide

theorem rxStateAfter_whole {total : Nat} (atLeast : offPld ≤ total) :
    rxStateAfter total total = .complete := by
  obtain ⟨k, rfl⟩ := Nat.exists_eq_add_of_le' atLeast
  exact if_neg (lt_irrefl _)

/-- The first `k` bytes of the frame are received, by a decoder that began in `AwaitStart0`. The
counter is 0 from the length byte to the opcode and counts the payload bytes behind it. -/
structure Received (frame : List Byte) (k : Nat) (t : State) : Prop where
  state : t.rxState = rxStateAfter frame.length k
  count : offLen < k → t.rxCnt = k - offPld
  held : Stands t.rx 0 (frame.take k)

section
variable {c : Cfg} {frame : List Byte} {len : Byte}

theorem IsFrame.offPld_le_length (form : IsFrame c frame len) : offPld ≤ frame.length := by
  have := form.whole
  have := form.legal
  simp only [lenMin, overhead, offPld] at *
  omega

theorem IsFrame.length_le (form : IsFrame c frame len) : frame.length ≤ frameMax := by
  have := form.whole
  have := len.isLt
  simp only [overhead, frameMax] at *
  omega

/-- With the payload length `n` the frame declares, the whole frame has `9 + n` bytes. -/
theorem IsFrame.length_eq (form : IsFrame c frame len) : frame.length = 9 + pldLen len := by
  have := form.whole
  have := form.legal
  simp only [lenMin, overhead, pldLen, hdrCounted] at *
  omega

/-- The length byte is in `RX` once it is received. -/
theorem Received.length_held {k : Nat} {t : State} (received : Received frame k t)
    (third : frame[offLen]? = some len) (after : offLen < k) : bufRead t.rx offLen = some len := by
  have inside : offLen < (frame.take k).length := by
    rw [List.length_take, lt_min_iff]
    exact ⟨after, (List.getElem?_eq_some_iff.1 third).1⟩
  have stands := received.held offLen inside
  rwa [Nat.zero_add, List.getElem?_take_of_lt after, third] at stands

/-- The next byte of a frame is stored at its offset, and the decoder moves to the state due
there. -/
theorem Received.stores {k : Nat} {t : State} {b : Byte} (form : IsFrame t.cfg frame len)
    (received : Received frame k t) (next : frame[k]? = some b) :
    ∃ cnt, RxStores t b k (rxStateAfter frame.length (k + 1)) cnt ∧
      (offLen < k + 1 → cnt = k + 1 - offPld) := by
  have state := received.state
  have due : k < frame.length := (List.getElem?_eq_some_iff.1 next).1
  match k with
  | 0 => exact ⟨_, .startA state (Option.some.inj (next.symm.trans form.startA)),
      fun late => absurd late (by decide)⟩
  | 1 => exact ⟨_, .startB state (Option.some.inj (next.symm.trans form.startB)),
      fun late => absurd late (by decide)⟩
  | 2 =>
    obtain rfl : b = len := Option.some.inj (next.symm.trans form.third)
    exact ⟨_, .length state form.legal, fun _ => rfl⟩
  | 3 | 4 | 5 | 6 | 7 =>
    exact ⟨_, .header (congrArg headerPlace state), fun _ => received.count (by decide)⟩
  | 8 =>
    have held := received.length_held form.third (by decide)
    have total := form.length_eq
    rcases Nat.eq_zero_or_pos (pldLen len) with empty | declared
    · have last : rxStateAfter frame.length 9 = .complete :=
        if_neg (show ¬ 9 < frame.length by omega)
      exact ⟨_, last ▸ .lastOpcode state held empty, fun _ => received.count (by decide)⟩
    · have more : rxStateAfter frame.length 9 = .payload :=
        if_pos (show 9 < frame.length by omega)
      exact ⟨_, more ▸ .opcode state held declared, fun _ => rfl⟩
  | k + 9 =>
    have held := received.length_held form.third (by simp only [offLen]; omega)
    have count : t.rxCnt = k := received.count (by simp only [offLen]; omega)
    have total := form.length_eq
    have fits := form.length_le
    have offset : offPld + t.rxCnt = k + 9 := by rw [count, offPld, Nat.add_comm]
    have reached : rxStateAfter frame.length (k + 9 + 1)
        = if t.rxCnt + 1 = pldLen len then .complete else .payload := by
      rw [count]
      by_cases last : k + 1 = pldLen len
      · rw [if_pos last]
        exact if_neg (show ¬ k + 1 + 9 < frame.length by omega)
      · rw [if_neg last]
        exact if_pos (show k + 1 + 9 < frame.length by omega)
    have place : RxStores t b (offPld + t.rxCnt) _ (t.rxCnt + 1) :=
      .payload (state.trans (if_pos due)) held (by omega)
    exact ⟨_, reached ▸ offset ▸ place, fun _ => congrArg (· + 1) count⟩

/-- A byte written behind those that stand extends them. -/
theorem stands_take_succ {buf : Buffer} {l : List Byte} {k : Nat} {v : Byte}
    (held : Stands buf 0 (l.take k)) (next : l[k]? = some v) :
    Stands (bufWrite buf k v) 0 (l.take (k + 1)) := by
  intro j inside
  rw [List.length_take, lt_min_iff] at inside
  obtain ⟨upTo, short⟩ := inside
  rw [Nat.zero_add, List.getElem?_take_of_lt upTo]
  rcases Nat.lt_succ_iff_lt_or_eq.1 upTo with before | rfl
  · rw [bufRead_bufWrite_other buf v before.ne, ← List.getElem?_take_of_lt before,
      ← held j (by rw [List.length_take, lt_min_iff]; exact ⟨before, short⟩), Nat.zero_add]
  · rw [bufRead_bufWrite_same, next]

/-- The whole frame received is the frame in `RX`. -/
theorem Received.frameIn {t : State} (form : IsFrame c frame len)
    (received : Received frame frame.length t) : FrameIn t.rx frame := by
  have stands := received.held
  rw [List.take_length] at stands
  have after : offLen < frame.length := lt_of_lt_of_le (by decide) form.offPld_le_length
  exact ⟨stands, len, received.length_held form.third after, form.whole⟩

end

/-! ### Feeding a frame -/

/-- From `s` the host has fed the first `k` bytes of the frame, each of them consumed, and has the
others and then `rest` yet to issue; nothing but the decoder has changed. -/
structure Fed (frame : List Byte) (rest : List Instr) (s : State) (k : Nat) (t : State) : Prop where
  received : Received frame k t
  cfg : t.cfg = s.cfg
  encoder : SameCe s t
  demux : SameRd s t
  host : t.host = (frame.drop k).map Instr.rxByte ++ rest
  outputs : t.outputs = List.replicate k (.consumed true) ++ s.outputs

section
variable {frame : List Byte} {len : Byte} {rest : List Instr} {s t : State} {k : Nat}

theorem fed_none (state : s.rxState = .awaitStart0)
    (issued : s.host = frame.map Instr.rxByte ++ rest) : Fed frame rest s 0 s where
  received := ⟨state, fun late => absurd late (by decide), fun _ inside => absurd inside (by simp)⟩
  cfg := rfl
  encoder := ⟨rfl, rfl⟩
  demux := ⟨rfl, rfl⟩
  host := issued
  outputs := rfl

/-- One step feeds one byte. -/
theorem Fed.step (form : IsFrame s.cfg frame len) (fed : Fed frame rest s k t)
    (due : k < frame.length) : ∃ u, step t = .next u ∧ Fed frame rest s (k + 1) u := by
  obtain ⟨received, cfg, ⟨cmd, cmdValid⟩, ⟨rpl, rplEmpty⟩, host, outputs⟩ := fed
  have next : frame[k]? = some frame[k] := List.getElem?_eq_getElem due
  rw [List.drop_eq_getElem_cons due, List.map_cons, List.cons_append] at host
  let issuing : State := { t with host := (frame.drop (k + 1)).map Instr.rxByte ++ rest }
  have receivedThere : Received frame k issuing := ⟨received.state, received.count, received.held⟩
  have formThere : IsFrame issuing.cfg frame len := by
    rw [show issuing.cfg = s.cfg from cfg]
    exact form
  obtain ⟨cnt, place, count⟩ := receivedThere.stores formThere next
  refine ⟨_, (step_of_host host rfl).trans (exec_rxByte_stores place), ?_⟩
  exact {
    received := ⟨rxStored_rxState, count, stands_take_succ received.held next⟩
    cfg := cfg
    encoder := ⟨cmd, cmdValid⟩
    demux := ⟨rpl, rplEmpty⟩
    host := rfl
    outputs := congrArg (Output.consumed true :: ·) outputs }

/-- Feeding goes on byte by byte to the end of the frame, by induction on the bytes yet to feed. -/
theorem Fed.run (form : IsFrame s.cfg frame len) (fed : Fed frame rest s k t) (j : Nat)
    (due : k + j ≤ frame.length) :
    ∃ u : State, Sys2Proof.core.run j t = .next u ∧ Fed frame rest s (k + j) u := by
  induction j generalizing k t with
  | zero => exact ⟨t, rfl, fed⟩
  | succ j ih =>
    obtain ⟨u, stepped, fedOne⟩ := fed.step form (by omega)
    obtain ⟨v, ran, fedAll⟩ := ih fedOne (by omega)
    refine ⟨v, (run_succ_of_next Sys2Proof.core stepped).trans ran, ?_⟩
    rwa [Nat.add_right_comm] at fedAll

/-- From `AwaitStart0`, `k` steps feed the first `k` bytes of a frame. -/
theorem run_feed (form : IsFrame s.cfg frame len) (state : s.rxState = .awaitStart0)
    (issued : s.host = frame.map Instr.rxByte ++ rest) (due : k ≤ frame.length) :
    ∃ t : State, Sys2Proof.core.run k s = .next t ∧ Fed frame rest s k t := by
  have fed := (fed_none state issued).run form k (by rwa [Nat.zero_add])
  rwa [Nat.zero_add] at fed

end

/-- Settles O21: the state after `k` bytes is `Complete` exactly at the last. -/
theorem everyFrameCompletesAtItsLastByte : Obligations.EveryFrameCompletesAtItsLastByte := by
  intro s len xs rest legal counted state issued
  have form : IsFrame s.cfg (s.cfg.startA :: s.cfg.startB :: len :: xs) len :=
    ⟨rfl, rfl, rfl, legal, congrArg (· + 3) counted⟩
  constructor
  · intro k short
    rw [← show _ = len.toNat + 3 from form.whole] at short
    obtain ⟨t, run, fed⟩ := run_feed form state issued short.le
    exact ⟨t, run, fed.received.state.trans_ne (rxStateAfter_ne_complete short), fed.outputs⟩
  · rw [← show _ = len.toNat + 3 from form.whole]
    obtain ⟨t, run, fed⟩ := run_feed form state issued le_rfl
    exact ⟨t, run, fed.received.state.trans (rxStateAfter_whole form.offPld_le_length), fed.outputs,
      fed.received.frameIn form, fed.cfg, by simpa using fed.host, fed.encoder, fed.demux⟩

/-! ### Round trips -/

/-- The frame in a buffer with the two markers and a legal length byte. -/
theorem isFrame_of_frameIn {c : Cfg} {b : Buffer} {bytes : List Byte} {len : Byte}
    (marked : Marked c b) (third : bufRead b offLen = some len) (legal : lenMin ≤ len.toNat)
    (frameIn : FrameIn b bytes) : IsFrame c bytes len := by
  obtain ⟨startA, startB⟩ := marked
  obtain ⟨stands, held, heldThird, whole⟩ := frameIn
  obtain rfl : held = len := Option.some.inj (heldThird.symm.trans third)
  have at_offset {k : Nat} (inside : k < offPld) : bytes[k]? = bufRead b k := by
    rw [← stands k (by simp only [whole, overhead, offPld, lenMin] at *; omega), Nat.zero_add]
  exact ⟨(at_offset (by decide)).trans startA, (at_offset (by decide)).trans startB,
    (at_offset (by decide)).trans third, legal, whole⟩

/-- An operation that outputs a frame, the frame's bytes fed back, and RX_READ: the bytes come
back. -/
theorem run_round_trip {s : State} {i : Instr} {bytes : List Byte} {len : Byte} {rest : List Instr}
    (form : IsFrame s.cfg bytes len) (state : s.rxState = .awaitStart0)
    (issued : s.host = i :: (bytes.map Instr.rxByte ++ .rxRead :: rest))
    (operation : i.isOperation = true)
    (output : ∀ host : List Instr, exec i { s with host := host }
      = .next (emit (.frame bytes) { s with host := host })) :
    ∃ t : State, Sys2Proof.core.run (bytes.length + 2) s = .next t ∧ t.rxState = .complete ∧
      t.host = rest ∧ SameCe s t ∧ SameRd s t ∧
      t.outputs = .read (some bytes)
        :: (List.replicate bytes.length (.consumed true) ++ .frame bytes :: s.outputs) := by
  let sent : State :=
    emit (.frame bytes) { s with host := bytes.map Instr.rxByte ++ .rxRead :: rest }
  obtain ⟨t, run, fed⟩ := run_feed (s := sent) form state rfl le_rfl
  have whole : FrameIn t.rx bytes := fed.received.frameIn form
  have complete : t.rxState = .complete :=
    fed.received.state.trans (rxStateAfter_whole form.offPld_le_length)
  have reading : t.host = .rxRead :: rest := by simpa using fed.host
  let asking : State := { t with host := rest }
  have read : exec .rxRead asking = .next (emit (.read (some bytes)) asking) :=
    exec_rxRead_complete complete whole
  have first : Sys2Proof.core.run (bytes.length + 1 + 1) s
      = Sys2Proof.core.run (bytes.length + 1) sent := run_succ_of_host issued operation (output _)
  have feeding : Sys2Proof.core.run (bytes.length + 1) sent = Sys2Proof.core.run 1 t :=
    run_add_of_next Sys2Proof.core run
  have last := run_succ_of_host (k := 0) reading rfl read
  exact ⟨_, first.trans (feeding.trans last), complete, rfl, fed.encoder, fed.demux,
    congrArg (Output.read (some bytes) :: ·) fed.outputs⟩

/-- Every legal length field of a command frame is 6 or more (R162). -/
theorem lenMin_le_of_cmdLenLegal {kind : PayloadClass} {l : Nat} (legal : cmdLenLegal kind l) :
    lenMin ≤ l := by
  cases kind <;> simp only [cmdLenLegal, lenMin] at * <;> omega

/-- Settles O32: under the invariant the command frame has the markers and a legal length, so the
decoder completes on it. -/
theorem commandRoundTripsThroughTheDecoder : Obligations.CommandRoundTripsThroughTheDecoder := by
  intro s bytes rest inv valid frameIn state issued
  obtain ⟨_, len, _, -, -, third, -, -, legal⟩ := inv.ce.whole valid
  have form := isFrame_of_frameIn (inv.ce.marked valid) third (lenMin_le_of_cmdLenLegal legal)
    frameIn
  exact run_round_trip form state issued rfl fun _ => exec_txSerialize_valid valid frameIn

/-- Settles O33: the same of a pending reply. -/
theorem replyRoundTripsThroughTheDecoder : Obligations.ReplyRoundTripsThroughTheDecoder := by
  intro s bytes rest inv pending frameIn state issued
  obtain ⟨len, third, -, lengths⟩ := inv.rd.whole pending
  have legal : lenMin ≤ len.toNat := by
    simp only [List.mem_cons, List.not_mem_nil, or_false, lenMin] at *
    omega
  have form := isFrame_of_frameIn (inv.rd.marked pending) third legal frameIn
  exact run_round_trip form state issued rfl fun _ => exec_rplSerialize_pending pending frameIn

end Sys2Proof.Machine
end

section
/-! Proofs of the family 41_command_encoder.md: the default frame of TX_NEW, and the six setters. -/

namespace Sys2Proof.Machine

/-! ### TX_NEW -/

/-- The frame TX_NEW writes: the operands' header and the zero payload of the opcode's class
(R152). -/
def newFrame (c : Cfg) (op : Byte) (hwid msgid : U16) (src dst : U4) : List Byte :=
  frameOf c op { hwid := hwid, msgid := msgid, src := src, dst := dst
                 payload := List.replicate (defaultLen (classOf c op)) 0#8 }

theorem exec_txNew (op : Byte) (hwid msgid : U16) (src dst : U4) (s : State) :
    exec (.txNew op hwid msgid src dst) s
      = .next (emit .nothing (loadCmd (newFrame s.cfg op hwid msgid src dst) s)) := rfl

theorem newFrame_length (c : Cfg) (op : Byte) (hwid msgid : U16) (src dst : U4) :
    (newFrame c op hwid msgid src dst).length = offPld + defaultLen (classOf c op) := by
  rw [newFrame, frameOf_length, List.length_replicate]

/-- The bytes of that frame, with the `n` zero bytes its class gives. -/
theorem newFrame_eq {c : Cfg} {op : Byte} {hwid msgid : U16} {src dst : U4} {n : Nat}
    (length : defaultLen (classOf c op) = n) :
    newFrame c op hwid msgid src dst
      = [c.startA, c.startB, BitVec.ofNat 8 (6 + n), hwid.extractLsb' 0 8, hwid.extractLsb' 8 8,
          msgid.extractLsb' 0 8, msgid.extractLsb' 8 8, src ++ dst, op]
        ++ List.replicate n 0#8 := by
  rw [newFrame, frameOf_eq, length, List.length_replicate]
  rfl

/-- What holds of each of the six named classes for its opcode, and of the simple one for an opcode
without a default payload, holds of an opcode's class. -/
theorem classOf_cases (P : PayloadClass → Prop) (c : Cfg) (op : Byte)
    (reboot : op = c.opcReboot → P .reboot) (setTime : op = c.opcSetTime → P .setTime)
    (telemetry : op = c.opcTelemetryReport → P .telemetry)
    (writePage : op = c.opcBootloaderWritePage → P .writePage)
    (ascii : op = c.opcCommonAscii → P .ascii) (data : op = c.opcDataRecord → P .data)
    (simple : op ≠ c.opcSetTime → op ≠ c.opcTelemetryReport → op ≠ c.opcBootloaderWritePage →
      P .simple) : P (classOf c op) := by
  unfold classOf
  split_ifs with isReboot isSetTime isTelemetry isWritePage isAscii isData
  exacts [reboot isReboot, setTime isSetTime, telemetry isTelemetry, writePage isWritePage,
    ascii isAscii, data isData, simple isSetTime isTelemetry isWritePage]

/-- Under a well-formed configuration the opcodes of the six classes are six values (R7). -/
theorem classOpcodes_nodup {c : Cfg} (wellFormed : c.WellFormed) :
    [c.opcReboot, c.opcSetTime, c.opcTelemetryReport, c.opcBootloaderWritePage, c.opcCommonAscii,
      c.opcDataRecord].Nodup := by
  have distinct := wellFormed.distinct
  simp only [Cfg.opcodes, List.nodup_cons, List.mem_cons, List.not_mem_nil, not_or, or_false]
    at distinct ⊢
  grind

/-- Under a well-formed configuration each of the six opcodes has its own class (R151). -/
theorem classOf_named {c : Cfg} (wellFormed : c.WellFormed) :
    classOf c c.opcReboot = .reboot ∧ classOf c c.opcSetTime = .setTime ∧
    classOf c c.opcTelemetryReport = .telemetry ∧
    classOf c c.opcBootloaderWritePage = .writePage ∧
    classOf c c.opcCommonAscii = .ascii ∧ classOf c c.opcDataRecord = .data := by
  have distinct := classOpcodes_nodup wellFormed
  simp only [List.nodup_cons, List.mem_cons, List.not_mem_nil, not_or, or_false] at distinct
  simp only [classOf]
  grind

/-- The default payload lengths by opcode (R153). -/
theorem defaultLen_classOf {c : Cfg} (wellFormed : c.WellFormed) (op : Byte) :
    defaultLen (classOf c op) = if op = c.opcSetTime then 8
      else if op = c.opcTelemetryReport then 78
      else if op = c.opcBootloaderWritePage then 1 else 0 := by
  have distinct := classOpcodes_nodup wellFormed
  simp only [List.nodup_cons, List.mem_cons, List.not_mem_nil, not_or, or_false] at distinct
  apply classOf_cases (fun kind => defaultLen kind = _) c op
  case simple =>
    intro setTime telemetry writePage
    rw [if_neg setTime, if_neg telemetry, if_neg writePage]
    rfl
  all_goals
    intro named
    simp only [named, defaultLen]
    grind

/-- Loading a command frame puts its bytes in `CMD`, and nothing behind them. -/
theorem loads_of_exec {i : Instr} {l : List Byte} {s : State}
    (h : exec i s = .next (emit .nothing (loadCmd l s))) :
    ∃ t, exec i s = .next t ∧ Stands t.cmd 0 l ∧ (∀ a, l.length ≤ a → bufRead t.cmd a = none) ∧
      t.cmdValid = true ∧ SameFd s t ∧ SameRd s t ∧ Emits .nothing s t :=
  ⟨_, h, loadCmd_stands l s, loadCmd_beyond l s, rfl, ⟨rfl, rfl, rfl⟩, ⟨rfl, rfl⟩, rfl, rfl, rfl⟩

/-- Settles O23: the frame loaded is the header with the default payload. -/
theorem txNewBuildsTheDefaultFrame : Obligations.TxNewBuildsTheDefaultFrame := by
  intro s op hwid msgid src dst wellFormed n
  have length : defaultLen (classOf s.cfg op) = n := defaultLen_classOf wellFormed op
  obtain ⟨t, next, stands, beyond, frame⟩ := loads_of_exec (exec_txNew op hwid msgid src dst s)
  rw [newFrame_length, length] at beyond
  rw [newFrame_eq length] at stands
  exact ⟨t, next, stands, beyond, frame⟩

/-! ### What a setter does -/

/-- The six setters. -/
def IsSetter (i : Instr) : Prop :=
  (∃ v, i = .txSetDelay v) ∨ (∃ v w, i = .txSetTime v w) ∨ (∃ l, i = .txSetTelem l) ∨
    (∃ p l, i = .txSetPage p l) ∨ (∃ l, i = .txSetAscii l) ∨ (∃ l, i = .txSetData l)

/-- The payload a setter writes in a frame of its opcode, where its operand has a legal size (R156
to R161). -/
inductive Sets (c : Cfg) : Instr → Byte → List Byte → Prop
  | delay (v : U32) : Sets c (.txSetDelay v) c.opcReboot (leBytes delayLen v.toNat)
  | time (v w : U32) :
      Sets c (.txSetTime v w) c.opcSetTime (leBytes 4 v.toNat ++ leBytes 4 w.toNat)
  | telem {l : List Byte} (size : l.length = telemLen) :
      Sets c (.txSetTelem l) c.opcTelemetryReport l
  | page {p : Byte} {l : List Byte} (size : l.length = pageLen) :
      Sets c (.txSetPage p l) c.opcBootloaderWritePage (p :: l)
  | ascii {l : List Byte} (size : l.length ≤ pldMax) : Sets c (.txSetAscii l) c.opcCommonAscii l
  | data {l : List U16} (size : l.length ≤ dataMax) :
      Sets c (.txSetData l) c.opcDataRecord (dataPayload c.dataMsbFirst l)

/-- All that a setter can do to the command frame. -/
inductive SetterEffect (i : Instr) (s : State) : State → Prop
  | ignored : SetterEffect i s (emit .nothing s)
  | sets {op : Byte} {l : List Byte} (held : HoldsCommand s op) (payload : Sets s.cfg i op l) :
      SetterEffect i s (emit .nothing (storePayload l s))
  | pageNumber (p : Byte) (held : HoldsCommand s s.cfg.opcBootloaderWritePage) :
      SetterEffect i s (emit .nothing (storeCmd offPld [p] s))

section
variable {c : Cfg} {i : Instr} {s t : State} {op : Byte} {l : List Byte}

/-- Every payload a setter writes fits in a frame. -/
theorem Sets.length_le (payload : Sets c i op l) : l.length ≤ pldMax := by
  cases payload <;>
    simp only [List.length_append, List.length_cons, leBytes_length, dataPayload_length, telemLen,
      pageLen, dataMax, pldMax, delayLen] at * <;> omega

/-- On a frame of its opcode a setter with an operand of legal size writes its payload. -/
theorem exec_sets (held : HoldsCommand s op) (payload : Sets s.cfg i op l) :
    exec i s = .next (emit .nothing (storePayload l s)) := by
  cases payload with
  | delay | time => exact setter_applies _ held
  | telem size | page size | ascii size => exact (setter_applies _ held).trans (if_pos size)
  | data size => exact (setter_applies _ held).trans (if_neg (not_lt.2 size))

/-- A setter completes only by one of its effects. -/
theorem setterEffect_of_exec (setter : IsSetter i) (h : exec i s = .next t) :
    SetterEffect i s t := by
  have applied {op : Byte} {a : Outcome} (h : Machine.setter op a s = .next t)
      (here : HoldsCommand s op → a = .next t → SetterEffect i s t) : SetterEffect i s t := by
    rcases setter_next h with ⟨held, next⟩ | ⟨-, rfl⟩
    · exact here held next
    · exact .ignored
  rcases setter with ⟨v, rfl⟩ | ⟨v, w, rfl⟩ | ⟨l, rfl⟩ | ⟨p, l, rfl⟩ | ⟨l, rfl⟩ | ⟨l, rfl⟩ <;>
    refine applied h fun held next => ?_
  case inl | inr.inl =>
    cases next
    exact .sets held (by constructor)
  case inr.inr.inl | inr.inr.inr.inr.inl =>
    split at next <;> cases next
    next size => exact .sets held (by constructor; exact size)
    next => exact .ignored
  case inr.inr.inr.inl =>
    split at next <;> cases next
    next size => exact .sets held (.page size)
    next => exact .pageNumber p held
  case inr.inr.inr.inr.inr =>
    split at next <;> cases next
    next size => exact .sets held (.data (not_lt.1 size))

theorem exec_txSetPage_number {p : Byte} {body : List Byte}
    (held : HoldsCommand s s.cfg.opcBootloaderWritePage) (size : body.length ≠ pageLen) :
    exec (.txSetPage p body) s = .next (emit .nothing (storeCmd offPld [p] s)) :=
  (setter_applies _ held).trans (if_neg size)

/-- The page number alone changes the first payload byte. -/
theorem sameOutside_storeCmd_one (off : Nat) (b : Byte) (s : State) :
    SameOutside off 1 s.cmd (storeCmd off [b] s).cmd :=
  sameOutside_bufWriteAll s.cmd off [b]

end

/-- A no-op where the frame has another opcode, or none is valid (R155; D11). -/
theorem ignored_of_other {i : Instr} {s : State} {op : Byte} {a : Outcome}
    (meaning : exec i s = setter op a s) (other : HoldsOtherCommand s op) : Ignored i s :=
  ignored_of_exec (meaning.trans (setter_other a other))

/-! ### The six setters -/

/-- Settles O24: `MemWrite`'s four bytes are those of the delay, and the length byte counts them. -/
theorem txSetDelayStoresTheDelay : Obligations.TxSetDelayStoresTheDelay := by
  intro s delay
  rw [← leBytes_u32]
  exact ⟨fun held => setsPayload_of_exec (exec_sets held (.delay delay)), ignored_of_other rfl⟩

/-- Settles O25: the payload is the two `MemWrite`s side by side. -/
theorem txSetTimeStoresBothTimes : Obligations.TxSetTimeStoresBothTimes := by
  intro s sec nsec
  rw [← leBytes_u32, ← leBytes_u32]
  exact ⟨fun held => setsPayload_of_exec (exec_sets held (.time sec nsec)), ignored_of_other rfl⟩

/-- Settles O26: the length byte is that of 78 bytes of payload. -/
theorem txSetTelemTakesOnly78Bytes : Obligations.TxSetTelemTakesOnly78Bytes := by
  intro s buf
  refine ⟨fun held size => ?_, fun held size => ?_, ignored_of_other rfl⟩
  · have sets := setsPayload_of_exec (exec_sets held (.telem size))
    rwa [size] at sets
  · exact ignored_of_exec ((setter_applies _ held).trans (if_neg size))

/-- Settles O27: the length byte is that of a page number and 128 bytes. -/
theorem txSetPageWritesThePageNumberAlways : Obligations.TxSetPageWritesThePageNumberAlways := by
  intro s page body
  refine ⟨fun held size => ?_, fun held size => ?_, ignored_of_other rfl⟩
  · have sets := setsPayload_of_exec (exec_sets held (.page (p := page) size))
    rwa [List.length_cons, size] at sets
  · exact ⟨_, exec_txSetPage_number held size, stands_bufWriteAll s.cmd offPld [page] 0 Nat.one_pos,
      sameOutside_storeCmd_one offPld page s, rfl, ⟨rfl, rfl, rfl⟩, ⟨rfl, rfl⟩, rfl, rfl, rfl⟩

/-- Settles O28: the string is the payload, or too long for one. -/
theorem txSetAsciiTakesUpTo249Bytes : Obligations.TxSetAsciiTakesUpTo249Bytes := by
  intro s str
  refine ⟨fun held size => ?_, fun held size => ?_, ignored_of_other rfl⟩
  · exact setsPayload_of_exec (exec_sets held (.ascii size))
  · exact ignored_of_exec ((setter_applies _ held).trans (if_neg (not_le.2 size)))

/-! ### The elements of a data record -/

theorem dataElement_eq (msbFirst : Bool) (v : U16) :
    dataElement msbFirst v = [v.extractLsb' (if msbFirst then 8 else 0) 8,
      v.extractLsb' (if msbFirst then 0 else 8) 8] := by
  rw [dataElement, leBytes_u16]
  cases msbFirst <;> rfl

/-- Element `k` is at payload bytes `2k` and `2k + 1`, in the order `DATA_MSB_FIRST` fixes
(R161). -/
theorem dataPayload_getElem? (msbFirst : Bool) {vals : List U16} {k : Nat} {v : U16}
    (element : vals[k]? = some v) :
    (dataPayload msbFirst vals)[2 * k]? = some (v.extractLsb' (if msbFirst then 8 else 0) 8) ∧
    (dataPayload msbFirst vals)[2 * k + 1]?
      = some (v.extractLsb' (if msbFirst then 0 else 8) 8) := by
  induction vals generalizing k with
  | nil => cases element
  | cons w vals ih =>
    have split : dataPayload msbFirst (w :: vals)
        = w.extractLsb' (if msbFirst then 8 else 0) 8
          :: w.extractLsb' (if msbFirst then 0 else 8) 8 :: dataPayload msbFirst vals := by
      rw [dataPayload, List.flatMap_cons, dataElement_eq]
      rfl
    rw [split]
    cases k with
    | zero =>
      obtain rfl : w = v := Option.some.inj element
      exact ⟨rfl, rfl⟩
    | succ k => exact ih element

/-- Settles O29: the elements' bytes are in the payload, which stands from offset 9 on. -/
theorem txSetDataStoresUpTo124Elements : Obligations.TxSetDataStoresUpTo124Elements := by
  intro s vals
  refine ⟨fun held size => ?_, fun held size => ?_, ignored_of_other rfl⟩
  · obtain ⟨t, next, stands, len, outside, frame⟩ :=
      setsPayload_of_exec (exec_sets held (.data size))
    rw [dataPayload_length] at len outside
    refine ⟨t, next, fun k v element => ?_, len, outside, frame⟩
    obtain ⟨first, second⟩ := dataPayload_getElem? s.cfg.dataMsbFirst element
    have at_payload {j : Nat} {b : Byte}
        (payload : (dataPayload s.cfg.dataMsbFirst vals)[j]? = some b) :
        bufRead t.cmd (9 + j) = some b :=
      (stands j (List.getElem?_eq_some_iff.1 payload).1).trans payload
    exact ⟨at_payload first, at_payload second⟩
  · exact (setter_applies _ held).trans (if_pos size)

/-- Settles O30: a setter writes the payload and the length field, or the page number, or
nothing. -/
theorem settersKeepTheHeader : Obligations.SettersKeepTheHeader := by
  intro i s t setter next
  cases setterEffect_of_exec setter next with
  | ignored => exact ⟨fun _ _ _ => rfl, rfl, ⟨rfl, rfl, rfl⟩, ⟨rfl, rfl⟩, rfl, rfl, rfl⟩
  | sets held payload =>
    exact ⟨fun a header notLen => storePayload_outside _ s a notLen (.inl header), rfl,
      ⟨rfl, rfl, rfl⟩, ⟨rfl, rfl⟩, rfl, rfl, rfl⟩
  | pageNumber p held =>
    exact ⟨fun a header _ => sameOutside_storeCmd_one offPld p s a (.inl header), rfl,
      ⟨rfl, rfl, rfl⟩, ⟨rfl, rfl⟩, rfl, rfl, rfl⟩

end Sys2Proof.Machine
end

section
/-! Proofs of the family 42_reply_demux.md, continued: the requests answered by their payload or by
policy, what any answer is, and what REPLY_GEN leaves alone. -/

namespace Sys2Proof.Machine

/-! ### What answering a request can do -/

/-- The state after `reply(op, P)` and its `commit()`, with its output (R193, R194). -/
def replyState (op : Byte) (payload : List Byte) (q : Request) (s : State) : State :=
  emit (.reply .replied)
    { s with rpl := bufWriteAll s.rpl 0 (frameOf s.cfg op (bounce q payload)), rplEmpty := false }

section
variable (op : Byte) (payload : List Byte) (q : Request) (s : State)

theorem reply_eq_replyState : reply op payload q s = .next (replyState op payload q s) := rfl

@[simp] theorem replyState_rpl : (replyState op payload q s).rpl
    = bufWriteAll s.rpl 0 (frameOf s.cfg op (bounce q payload)) := rfl

theorem replied_replyState : Replied op payload q s (replyState op payload q s) := by
  obtain ⟨t, next, replied⟩ := reply_replied op payload q s
  cases next
  exact replied

end

/-- The six templates of a reply, T1 to T6: opcode and payload (R212). -/
inductive Template (c : Cfg) (q : Request) (d : DeviceState) : Byte → List Byte → Prop
  | ack : Template c q d c.opcCommonAck []
  | nack : Template c q d c.opcCommonNack []
  | reason {r : Byte} (code : r = c.reasonPong ∨ r = c.reasonErased ∨ r = c.reasonJump) :
      Template c q d c.opcBootloaderAck [r]
  | page {p : Byte} {body : List Byte} (echo : q.payload = p :: body) :
      Template c q d c.opcBootloaderAck [p]
  | bootloaderNack : Template c q d c.opcBootloaderNack []
  | time : Template c q d c.opcSetTime (leBytes 4 d.nowSec.toNat ++ leBytes 4 d.nowNsec.toNat)
  | telemetry : Template c q d c.opcTelemetryReport (List.replicate telemLen 0#8)

/-- All that running a request can do: report something other than a reply and change nothing, or,
inside the precondition, reply by a template. -/
inductive AnswerEffect (q : Request) (d : DeviceState) (s : State) : State → Prop
  | reports {r : ReplyOutcome} (other : r ≠ .replied) : AnswerEffect q d s (emit (.reply r) s)
  | replies {op : Byte} {payload : List Byte} (complete : s.rxState = .complete)
      (idle : s.rplEmpty = true) (template : Template s.cfg q d op payload) :
      AnswerEffect q d s (replyState op payload q s)

/-- Behind the precondition, the answer of a request is a template or nothing. -/
def AnswersByTemplate (q : Request) (d : DeviceState) (s : State) (a : Outcome) : Prop :=
  ∀ t, a = .next t → (∃ r, r ≠ .replied ∧ t = emit (.reply r) s) ∨
    ∃ op payload, Template s.cfg q d op payload ∧ t = replyState op payload q s

section
variable {q : Request} {d : DeviceState} {s t : State} {a a' : Outcome}

theorem answersByTemplate_reply {op : Byte} {payload : List Byte}
    (template : Template s.cfg q d op payload) :
    AnswersByTemplate q d s (reply op payload q s) := by
  rintro t next
  cases next
  exact .inr ⟨op, payload, template, rfl⟩

theorem answersByTemplate_refused (r : Refusal) : AnswersByTemplate q d s (.refused r) := nofun

theorem answersByTemplate_ite {p : Prop} [Decidable p] (yes : AnswersByTemplate q d s a)
    (no : AnswersByTemplate q d s a') : AnswersByTemplate q d s (if p then a else a') := by
  split
  · exact yes
  · exact no

theorem answersByTemplate_bootMode {reason : Byte}
    (code : reason = s.cfg.reasonPong ∨ reason = s.cfg.reasonErased ∨ reason = s.cfg.reasonJump) :
    AnswersByTemplate q d s (replyInBootMode reason q d s) :=
  answersByTemplate_ite (answersByTemplate_reply (.reason code)) (answersByTemplate_reply .nack)

theorem answersByTemplate_unrecognized : AnswersByTemplate q d s (unrecognizedReply q s) := by
  rcases unrecognizedReply_cases q s with ⟨-, silent⟩ | ⟨-, replies⟩
  · rw [silent]
    rintro t next
    cases next
    exact .inl ⟨.noReply, nofun, rfl⟩
  · rw [replies]
    exact answersByTemplate_reply .nack

/-- Outside the precondition a request reports that it was not invoked; inside it is answered. -/
theorem answerEffect_of_invoke (answers : AnswersByTemplate q d s a) (h : invoke a s = .next t) :
    AnswerEffect q d s t := by
  rcases invoke_next h with ⟨complete, idle, next⟩ | ⟨-, rfl⟩
  · rcases answers t next with ⟨r, other, rfl⟩ | ⟨op, payload, template, rfl⟩
    · exact .reports other
    · exact .replies complete idle template
  · exact .reports (by decide)

/-- A request instruction completes only by one of the effects of an answer. -/
theorem answerEffect_of_exec {c : Cfg} {i : Instr} {op : Byte}
    (spelled : i.request c = some (op, q, d)) (h : exec i s = .next t) : AnswerEffect q d s t := by
  cases i <;> cases spelled
  case setTime | commonAck => exact answerEffect_of_invoke (answersByTemplate_reply .ack) h
  case telemetryReport | bootloaderAck | bootloaderNack | commonAscii | commonNack =>
    exact answerEffect_of_invoke (answersByTemplate_reply .nack) h
  case bootloaderPing =>
    exact answerEffect_of_invoke (answersByTemplate_bootMode (.inl rfl)) h
  case bootloaderErase =>
    exact answerEffect_of_invoke (answersByTemplate_bootMode (.inr (.inl rfl))) h
  case bootloaderJump =>
    exact answerEffect_of_invoke (answersByTemplate_bootMode (.inr (.inr rfl))) h
  case dataRecord | unrecognized => exact answerEffect_of_invoke answersByTemplate_unrecognized h
  case getTelemetry => exact answerEffect_of_invoke (answersByTemplate_reply .telemetry) h
  case getTime =>
    exact answerEffect_of_invoke
      (answersByTemplate_ite (answersByTemplate_reply .time) (answersByTemplate_reply .nack)) h
  case reboot =>
    refine answerEffect_of_invoke (answersByTemplate_ite (answersByTemplate_reply .ack)
      (answersByTemplate_ite (answersByTemplate_ite ?_ ?_) (answersByTemplate_refused _))) h
    · exact answersByTemplate_reply .ack
    · exact answersByTemplate_reply .nack
  case bootloaderWritePage =>
    refine answerEffect_of_invoke (answersByTemplate_ite (answersByTemplate_ite ?_
      (answersByTemplate_reply .bootloaderNack)) (answersByTemplate_reply .nack)) h
    split
    next => exact answersByTemplate_refused _
    next echo => exact answersByTemplate_reply (.page echo)

/-- What REPLY_GEN fetches from a completed reception is the row of a request held there. -/
theorem holdsRequest_of_fetch {i : Instr} (complete : s.rxState = .complete)
    (fetched : fetchRequest d s = some i) :
    ∃ op q, HoldsRequest s op q ∧ i = instrOf s.cfg op q d := by
  unfold fetchRequest at fetched
  split at fetched
  next => cases fetched
  next bytes whole =>
    split at fetched <;> cases fetched
    next decoded => exact holdsRequest_of_decode complete (bufFrame_eq_some.1 whole) decoded

/-- REPLY_GEN completes without being invoked, or by an effect of the request `RX` holds. -/
theorem replyGen_next {d : DeviceState} (h : exec (.replyGen d) s = .next t) :
    t = emit (.reply .notInvoked) s ∨
      ∃ op q, HoldsRequest s op q ∧ AnswerEffect q d s t := by
  rw [exec_replyGen, execReplyGen] at h
  rcases invoke_next h with ⟨complete, idle, next⟩ | ⟨-, rfl⟩
  · split at next
    next => cases next
    next i fetched =>
      obtain ⟨op, q, held, rfl⟩ := holdsRequest_of_fetch complete fetched
      rw [answer_eq_exec s (isOperation_instrOf s.cfg op q d)] at next
      exact .inr ⟨op, q, held, answerEffect_of_exec (request_instrOf s.cfg op q d) next⟩
  · exact .inl rfl

end

/-! ### Requests answered by their payload or by policy -/

section
variable {s : State} {op : Byte} {q : Request} {d : DeviceState} {i : Instr}
variable (wellFormed : s.cfg.WellFormed) (idle : s.rplEmpty = true) (held : HoldsRequest s op q)
  (spelled : i.request s.cfg = some (op, q, d))
  (legal : q.wellFormed = true → i.wellFormed s.cfg = true)
include wellFormed idle held spelled legal

/-- REPLY_GEN runs the request instruction whose frame `RX` holds. -/
theorem exec_replyGen_eq_exec : exec (.replyGen d) s = exec i s := by
  rw [exec_replyGen_of_holds held idle,
    instrOf_of_request wellFormed (legal (decide_eq_true held.legal)) spelled]

/-- Where the rule behind the precondition refuses, the request and REPLY_GEN are refused. -/
theorem refused_of_meaning {r : Refusal} {answered : Outcome}
    (meaning : exec i s = invoke answered s) (refuses : answered = .refused r) :
    exec i s = .refused r ∧ exec (.replyGen d) s = .refused r := by
  have direct : exec i s = .refused r := by
    rw [meaning, invoke_ready _ held.complete idle, refuses]
  exact ⟨direct, (exec_replyGen_eq_exec wellFormed idle held spelled legal).trans direct⟩

end

/-- Settles O36: the answer behind the precondition depends on the payload's length and, where that
is 4, on the delay. -/
theorem rebootIsAnsweredByTheDelayThreshold : Obligations.RebootIsAnsweredByTheDelayThreshold := by
  intro s q d wellFormed idle held
  have answers {rop payload} := answers_of_meaning (i := .reboot q d) (rop := rop)
    (payload := payload) wellFormed idle held rfl id rfl
  refine ⟨fun empty => ?_, fun b0 b1 b2 b3 four => ?_, fun nonempty other => ?_⟩
  · exact answers (if_pos (by rw [empty]; rfl))
  · intro delay
    have value : leValue q.payload = delay := by
      simp only [four, leValue, delay]
      omega
    have length : q.payload.length = delayLen := by rw [four]; rfl
    have nonempty : q.payload.length ≠ 0 := by rw [length]; decide
    constructor
    · intro within
      exact answers (by rw [if_neg nonempty, if_pos length, value, if_pos within]; rfl)
    · intro beyond
      exact answers (by rw [if_neg nonempty, if_pos length, value, if_neg (not_le.2 beyond)]; rfl)
  · exact refused_of_meaning wellFormed idle held rfl id rfl
      (by rw [if_neg nonempty, if_neg (show ¬ q.payload.length = delayLen from other)])

/-- Settles O40: `bootMode`, then `flashWriteOk`, then whether there is a page number to echo. -/
theorem writePageEchoesThePageNumber : Obligations.WritePageEchoesThePageNumber := by
  intro s q d wellFormed idle held
  have answers {rop payload} := answers_of_meaning (i := .bootloaderWritePage q d) (rop := rop)
    (payload := payload) wellFormed idle held rfl id rfl
  refine ⟨fun normal => ?_, fun boot locked => ?_, fun boot writable => ⟨fun page body echo => ?_,
    fun empty => ?_⟩⟩
  · exact answers (if_neg (ne_true_of_eq_false normal))
  · exact answers (by rw [if_pos boot, if_neg (ne_true_of_eq_false locked)])
  · exact answers (by rw [if_pos boot, if_pos writable, echo])
  · exact refused_of_meaning wellFormed idle held rfl id rfl
      (by rw [if_pos boot, if_pos writable, empty])

/-- Under either policy, an instruction that means the unrecognized rule follows it. -/
theorem follows_policy {s : State} {op : Byte} {q : Request} {d : DeviceState} {i : Instr}
    (wellFormed : s.cfg.WellFormed) (idle : s.rplEmpty = true) (held : HoldsRequest s op q)
    (spelled : i.request s.cfg = some (op, q, d))
    (legal : q.wellFormed = true → i.wellFormed s.cfg = true)
    (meaning : exec i s = invoke (unrecognizedReply q s) s) :
    (s.cfg.unrecognizedPolicy = .noReply →
      ∃ t, exec i s = .next t ∧ exec (.replyGen d) s = .next t ∧ SameFd s t ∧ SameCe s t ∧
        SameRd s t ∧ Emits (.reply .noReply) s t) ∧
    (s.cfg.unrecognizedPolicy = .nack → Answers i d s.cfg.opcCommonNack [] q s) := by
  rcases unrecognizedReply_cases q s with ⟨policy, silent⟩ | ⟨policy, replies⟩
  · refine ⟨fun _ => ?_, fun other => (nomatch policy.symm.trans other)⟩
    have direct : exec i s = .next (emit (.reply .noReply) s) := by
      rw [meaning, invoke_ready _ held.complete idle, silent]
    have fetched := exec_replyGen_eq_exec wellFormed idle held spelled legal
    exact ⟨_, direct, fetched.trans direct, done_emits rfl⟩
  · exact ⟨fun other => (nomatch policy.symm.trans other), fun _ =>
      answers_of_meaning wellFormed idle held spelled legal meaning replies⟩

/-- Settles O41: data-record and the unrecognized row have one rule (R210, R211). -/
theorem unrecognizedRequestsFollowThePolicy : Obligations.UnrecognizedRequestsFollowThePolicy := by
  rintro s q d i op wellFormed idle held (⟨rfl, rfl⟩ | ⟨unnamed, rfl⟩)
  · exact follows_policy wellFormed idle held rfl id rfl
  · exact follows_policy wellFormed idle held rfl
      (fun fits => by simpa [Instr.wellFormed, fits] using unnamed) rfl

/-! ### What REPLY_GEN leaves alone, and what it replies -/

/-- An answer leaves the decoder and the encoder alone, and the reply buffer too unless it
replies. -/
theorem AnswerEffect.frame {q : Request} {d : DeviceState} {s t : State}
    (effect : AnswerEffect q d s t) : SameFd s t ∧ SameCe s t ∧
      ∃ r, Emits (.reply r) s t ∧ (r ≠ .replied → SameRd s t) := by
  cases effect with
  | reports other => exact ⟨⟨rfl, rfl, rfl⟩, ⟨rfl, rfl⟩, _, ⟨rfl, rfl, rfl⟩, fun _ => ⟨rfl, rfl⟩⟩
  | @replies op payload complete idle template =>
    have replied := replied_replyState op payload q s
    exact ⟨replied.decoder, replied.encoder, .replied, replied.output,
      fun other => absurd rfl other⟩

/-- Settles O43: where REPLY_GEN is not invoked it only reports, and an answer has its frame. -/
theorem replyGenLeavesDecoderAndEncoder : Obligations.ReplyGenLeavesDecoderAndEncoder := by
  intro s t d next
  rcases replyGen_next next with rfl | ⟨op, q, -, effect⟩
  · exact ⟨⟨rfl, rfl, rfl⟩, ⟨rfl, rfl⟩, _, ⟨rfl, rfl, rfl⟩, fun _ => ⟨rfl, rfl⟩⟩
  · exact effect.frame

/-- A reply's ids are the bytes of the request in `RX`. -/
theorem Replied.ids {s t : State} {op rop : Byte} {payload : List Byte} {q : Request}
    (held : HoldsRequest s op q) (replied : Replied rop payload q s t) {a : Nat} (low : 3 ≤ a)
    (high : a ≤ 6) : bufRead t.rpl a = bufRead s.rx a := by
  rw [← held.frame_getElem? (k := a) (by simp only [offPld]; omega), frameOf_eq]
  have places : a = 3 ∨ a = 4 ∨ a = 5 ∨ a = 6 := by omega
  rcases places with rfl | rfl | rfl | rfl
  exacts [replied.hwidLow, replied.hwidHigh, replied.msgidLow, replied.msgidHigh]

/-- A reply's addressing byte is the request's with the nibbles exchanged (R193). -/
theorem Replied.bounced {s t : State} {op rop : Byte} {payload : List Byte} {q : Request}
    (held : HoldsRequest s op q) (replied : Replied rop payload q s t) :
    bufRead t.rpl offAddr = (bufRead s.rx offAddr).map swap4 := by
  rw [← held.frame_getElem? (k := offAddr) (by simp only [offPld, offAddr]; omega), frameOf_eq]
  exact replied.addr

/-- A reply by a template has the template's opcode, length field and payload; a page number comes
from the request's first payload byte (R212, R213). -/
theorem Replied.of_template {s t : State} {d : DeviceState} {op rop : Byte} {payload : List Byte}
    {q : Request} (held : HoldsRequest s op q) (template : Template s.cfg q d rop payload)
    (replied : Replied rop payload q s t) :
    ∃ op len, bufRead t.rpl 8 = some op ∧ bufRead t.rpl 2 = some len ∧
      (op = s.cfg.opcCommonAck ∧ len = 6#8 ∨
        op = s.cfg.opcCommonNack ∧ len = 6#8 ∨
        op = s.cfg.opcBootloaderAck ∧ len = 7#8 ∧
          (bufRead t.rpl 9 = some s.cfg.reasonPong ∨ bufRead t.rpl 9 = some s.cfg.reasonErased ∨
            bufRead t.rpl 9 = some s.cfg.reasonJump ∨ bufRead t.rpl 9 = bufRead s.rx 9) ∨
        op = s.cfg.opcBootloaderNack ∧ len = 6#8 ∨
        op = s.cfg.opcSetTime ∧ len = 14#8 ∧ Stands t.rpl 9 (le32 d.nowSec ++ le32 d.nowNsec) ∨
        op = s.cfg.opcTelemetryReport ∧ len = 84#8 ∧ Stands t.rpl 9 (List.replicate 78 0#8)) := by
  obtain ⟨-, len, -, -, -, -, -, opcode, body, -, -, -, -, -⟩ := replied
  refine ⟨rop, _, opcode, len, ?_⟩
  cases template with
  | ack => exact .inl ⟨rfl, rfl⟩
  | nack => exact .inr (.inl ⟨rfl, rfl⟩)
  | reason code =>
    have first := body 0 Nat.one_pos
    refine .inr (.inr (.inl ⟨rfl, rfl, ?_⟩))
    rcases code with rfl | rfl | rfl
    exacts [.inl first, .inr (.inl first), .inr (.inr (.inl first))]
  | page echo =>
    have first := body 0 Nat.one_pos
    have page := held.frame_getElem? (k := offPld + 0) (by rw [echo, List.length_cons]; omega)
    rw [frameOf_payload_getElem?, echo] at page
    exact .inr (.inr (.inl ⟨rfl, rfl, .inr (.inr (.inr (first.trans page)))⟩))
  | bootloaderNack => exact .inr (.inr (.inr (.inl ⟨rfl, rfl⟩)))
  | time =>
    rw [leBytes_u32, leBytes_u32] at body ⊢
    exact .inr (.inr (.inr (.inr (.inl ⟨rfl, rfl, body⟩))))
  | telemetry =>
    rw [List.length_replicate]
    exact .inr (.inr (.inr (.inr (.inr ⟨rfl, rfl, body⟩))))

/-- Settles O44: only a reply has the output `Replied`, and it is written by a template to the
request that `RX` holds. -/
theorem repliesAreOneOfSixTemplates : Obligations.RepliesAreOneOfSixTemplates := by
  rintro s t d next ⟨-, -, output⟩
  rcases replyGen_next next with rfl | ⟨op, q, held, effect⟩
  · cases output
  cases effect with
  | reports other =>
    cases output
    exact absurd rfl other
  | @replies rop payload complete idle template =>
    have replied := replied_replyState rop payload q s
    exact ⟨replied.pending, replied.marked, fun a low high => replied.ids held low high,
      replied.bounced held, replied.of_template held template⟩

end Sys2Proof.Machine
end

section
/-! Proofs about every instruction: all that one can do, said once, and from it which buffers, flags
and sequencing states it may change. -/

namespace Sys2Proof.Machine

/-! ### Who may change what -/

/-- The instructions that may change the decoder. -/
def DrivesDecoder (i : Instr) : Prop := (∃ b, i = .rxByte b) ∨ i = .rxClear ∨ i = .reset

/-- The instructions that may change the encoder. -/
def DrivesEncoder (i : Instr) : Prop :=
  (∃ op h m a b, i = .txNew op h m a b) ∨ IsSetter i ∨ i = .reset

/-- REPLY_GEN, and the requests it runs. -/
def AsksForReply (i : Instr) : Prop := (∃ d, i = .replyGen d) ∨ i.isOperation = false

/-- The instructions that may change the reply demultiplexer. -/
def DrivesDemux (i : Instr) : Prop := AsksForReply i ∨ i = .rplClear ∨ i = .reset

/-- All that an instruction can do: one constructor for each operation that writes, one for all that
only report. -/
inductive Effect (s : State) : Instr → State → Prop
  | reports {i : Instr} {o : Output} (quiet : ¬ DrivesDecoder i) : Effect s i (emit o s)
  | receives {b : Byte} {t : State} (effect : RxEffect s b t) : Effect s (.rxByte b) t
  | clears : Effect s .rxClear (emit .nothing (discard s))
  | resets : Effect s .reset (emit .nothing (resetBlock s))
  | loads (op : Byte) (hwid msgid : U16) (src dst : U4) :
      Effect s (.txNew op hwid msgid src dst)
        (emit .nothing (loadCmd (newFrame s.cfg op hwid msgid src dst) s))
  | sets {i : Instr} {t : State} (setter : IsSetter i) (effect : SetterEffect i s t) : Effect s i t
  | answers {i : Instr} {q : Request} {d : DeviceState} {t : State} (asks : AsksForReply i)
      (effect : AnswerEffect q d s t) : Effect s i t
  | drops : Effect s .rplClear (emit .nothing (dropReply s))

/-- The four operations that only report. -/
def IsQuery (i : Instr) : Prop :=
  i = .status ∨ i = .rxRead ∨ i = .txSerialize ∨ i = .rplSerialize

theorem IsQuery.quiet {i : Instr} (query : IsQuery i) : ¬ DrivesDecoder i := by
  rcases query with rfl | rfl | rfl | rfl <;> simp [DrivesDecoder]

/-- STATUS, RX_READ and the two serializers, where they complete, only report. -/
theorem query_next {i : Instr} {s t : State} (query : IsQuery i) (h : exec i s = .next t) :
    ∃ o, t = emit o s := by
  rcases query with rfl | rfl | rfl | rfl
  · cases h
    exact ⟨_, rfl⟩
  · change execRxRead s = _ at h
    unfold execRxRead at h
    split at h
    · split at h <;> cases h
      exact ⟨_, rfl⟩
    · cases h
      exact ⟨_, rfl⟩
  · change execTxSerialize s = _ at h
    unfold execTxSerialize at h
    split at h
    · split at h <;> cases h
      exact ⟨_, rfl⟩
    · cases h
  · change execRplSerialize s = _ at h
    unfold execRplSerialize at h
    split at h
    · cases h
      exact ⟨_, rfl⟩
    · split at h <;> cases h
      exact ⟨_, rfl⟩

/-- An instruction completes only by one of its effects. -/
theorem effect_of_exec {i : Instr} {s t : State} (h : exec i s = .next t) : Effect s i t := by
  cases i
  case reset =>
    cases h
    exact .resets
  case rxClear =>
    cases h
    exact .clears
  case rplClear =>
    cases h
    exact .drops
  case txNew op hwid msgid src dst =>
    cases h
    exact .loads op hwid msgid src dst
  case rxByte => exact .receives (rxEffect_of_exec h)
  case replyGen d =>
    rcases replyGen_next h with rfl | ⟨op, q, -, effect⟩
    · exact .reports (by simp [DrivesDecoder])
    · exact .answers (.inl ⟨d, rfl⟩) effect
  case txSetDelay | txSetTime | txSetTelem | txSetPage | txSetAscii | txSetData =>
    refine .sets ?_ (setterEffect_of_exec ?_ h) <;> simp [IsSetter]
  case status | rxRead | txSerialize | rplSerialize =>
    obtain ⟨o, rfl⟩ := query_next (by simp [IsQuery]) h
    exact .reports (IsQuery.quiet (by simp [IsQuery]))
  all_goals exact .answers (.inr rfl) (answerEffect_of_exec (c := s.cfg) rfl h)

/-! ### The frame of each effect -/

section
variable {s t : State} {i : Instr} {b : Byte}

/-- A received byte changes the decoder alone. -/
theorem RxEffect.frame (effect : RxEffect s b t) :
    SameCe s t ∧ SameRd s t ∧ t.cfg = s.cfg ∧ t.host = s.host := by
  cases effect <;> exact ⟨⟨rfl, rfl⟩, ⟨rfl, rfl⟩, rfl, rfl⟩

/-- A setter changes the encoder's buffer alone. -/
theorem SetterEffect.frame (effect : SetterEffect i s t) :
    SameFd s t ∧ t.cmdValid = s.cmdValid ∧ SameRd s t ∧ t.cfg = s.cfg ∧ t.host = s.host := by
  cases effect <;> exact ⟨⟨rfl, rfl, rfl⟩, rfl, ⟨rfl, rfl⟩, rfl, rfl⟩

/-- No instruction changes the configuration or what the host has yet to issue (R31). -/
theorem Effect.cfg_host (effect : Effect s i t) : t.cfg = s.cfg ∧ t.host = s.host := by
  cases effect with
  | reports | clears | resets | loads | drops => exact ⟨rfl, rfl⟩
  | receives effect =>
    obtain ⟨-, -, same⟩ := effect.frame
    exact same
  | sets _ effect =>
    obtain ⟨-, -, -, same⟩ := effect.frame
    exact same
  | answers _ effect =>
    obtain ⟨-, -, _, ⟨cfg, host, -⟩, -⟩ := effect.frame
    exact ⟨cfg, host⟩

theorem Effect.decoder (effect : Effect s i t) : SameFd s t ∨ DrivesDecoder i := by
  cases effect with
  | reports | loads | drops => exact .inl ⟨rfl, rfl, rfl⟩
  | receives => exact .inr (.inl ⟨_, rfl⟩)
  | clears => exact .inr (.inr (.inl rfl))
  | resets => exact .inr (.inr (.inr rfl))
  | sets _ effect => exact .inl effect.frame.1
  | answers _ effect => exact .inl effect.frame.1

theorem Effect.encoder (effect : Effect s i t) : SameCe s t ∨ DrivesEncoder i := by
  cases effect with
  | reports | clears | drops => exact .inl ⟨rfl, rfl⟩
  | receives effect => exact .inl effect.frame.1
  | resets => exact .inr (.inr (.inr rfl))
  | loads => exact .inr (.inl ⟨_, _, _, _, _, rfl⟩)
  | sets setter => exact .inr (.inr (.inl setter))
  | answers _ effect => exact .inl effect.frame.2.1

theorem Effect.demux (effect : Effect s i t) : SameRd s t ∨ DrivesDemux i := by
  cases effect with
  | reports | clears | loads => exact .inl ⟨rfl, rfl⟩
  | receives effect => exact .inl effect.frame.2.1
  | resets => exact .inr (.inr (.inr rfl))
  | sets _ effect =>
    obtain ⟨-, -, same, -⟩ := effect.frame
    exact .inl same
  | answers asks => exact .inr (.inl asks)
  | drops => exact .inr (.inr (.inl rfl))

end

/-- Settles O53: a buffer that differs was changed by an instruction that may change its unit. -/
theorem buffersAreWrittenByTheirOwnUnit : Obligations.BuffersAreWrittenByTheirOwnUnit := by
  intro s t i next
  have effect := effect_of_exec next
  refine ⟨fun differs => ?_, fun differs => ?_, fun differs => ?_⟩
  · rcases effect.decoder with ⟨same, -⟩ | drives
    · exact absurd same differs
    · exact drives
  · rcases effect.encoder with ⟨same, -⟩ | drives
    · exact absurd same differs
    · simpa only [DrivesEncoder, IsSetter, or_assoc] using drives
  · rcases effect.demux with ⟨same, -⟩ | drives
    · exact absurd same differs
    · simpa only [DrivesDemux, AsksForReply, or_assoc] using drives

/-! ### The flags -/

section
variable {s t : State} {i : Instr} {b : Byte}

/-- In `Complete` a byte can only be declined. -/
theorem RxEffect.eq_of_complete (effect : RxEffect s b t) (complete : s.rxState = .complete) :
    t = emit (.consumed false) s := by
  cases effect with
  | declines => rfl
  | noise state => exact nomatch complete.symm.trans state
  | discards mismatch =>
    rcases mismatch with ⟨state, -⟩ | ⟨state, -⟩ <;> exact nomatch complete.symm.trans state
  | stores place =>
    cases place with
    | header place => exact nomatch (congrArg headerPlace complete).symm.trans place
    | startA state | startB state | length state | opcode state | lastOpcode state
    | payload state =>
      exact nomatch complete.symm.trans state

/-- `rx_complete` stays and, while it is true, so does `RX`; or it is false and a byte arrives; or
the reception is dropped. -/
theorem Effect.rxComplete_cases (effect : Effect s i t) :
    (rxComplete t = rxComplete s ∧ (rxComplete s = true → t.rx = s.rx)) ∨
      (rxComplete s = false ∧ ∃ b, i = .rxByte b) ∨
      (rxComplete t = false ∧ (i = .rxClear ∨ i = .reset)) := by
  have same (unchanged : SameFd s t) :
      rxComplete t = rxComplete s ∧ (rxComplete s = true → t.rx = s.rx) := by
    obtain ⟨rx, state, -⟩ := unchanged
    exact ⟨by rw [rxComplete, rxComplete, state], fun _ => rx⟩
  cases effect with
  | reports | loads | drops => exact .inl ⟨rfl, fun _ => rfl⟩
  | @receives b t effect =>
    by_cases complete : s.rxState = .complete
    · obtain rfl := effect.eq_of_complete complete
      exact .inl ⟨rfl, fun _ => rfl⟩
    · exact .inr (.inl ⟨decide_eq_false complete, b, rfl⟩)
  | clears => exact .inr (.inr ⟨rfl, .inl rfl⟩)
  | resets => exact .inr (.inr ⟨rfl, .inr rfl⟩)
  | sets _ effect => exact .inl (same effect.frame.1)
  | answers _ effect => exact .inl (same effect.frame.1)

/-- `rpl_empty` stays, or falls with a reply, or rises with the reply dropped. -/
theorem Effect.rplEmpty_cases (effect : Effect s i t) :
    t.rplEmpty = s.rplEmpty ∨
      (t.rplEmpty = false ∧ AsksForReply i ∧ Emits (.reply .replied) s t) ∨
      (t.rplEmpty = true ∧ (i = .rplClear ∨ i = .reset)) := by
  cases effect with
  | reports | clears | loads => exact .inl rfl
  | receives effect => exact .inl effect.frame.2.1.2
  | resets => exact .inr (.inr ⟨rfl, .inr rfl⟩)
  | sets _ effect =>
    obtain ⟨-, -, ⟨-, same⟩, -⟩ := effect.frame
    exact .inl same
  | answers asks effect =>
    cases effect with
    | reports => exact .inl rfl
    | replies => exact .inr (.inl ⟨rfl, asks, rfl, rfl, rfl⟩)
  | drops => exact .inr (.inr ⟨rfl, .inl rfl⟩)

/-- `cmd_valid` stays, or rises with TX_NEW, or falls with RESET. -/
theorem Effect.cmdValid_cases (effect : Effect s i t) :
    t.cmdValid = s.cmdValid ∨ (t.cmdValid = true ∧ ∃ op h m a b, i = .txNew op h m a b) ∨
      (t.cmdValid = false ∧ i = .reset) := by
  cases effect with
  | reports | clears | drops => exact .inl rfl
  | receives effect => exact .inl effect.frame.1.2
  | resets => exact .inr (.inr ⟨rfl, rfl⟩)
  | loads => exact .inr (.inl ⟨rfl, _, _, _, _, _, rfl⟩)
  | sets _ effect => exact .inl effect.frame.2.1
  | answers _ effect => exact .inl effect.frame.2.1.2

end

/-- Settles O54: the three flags' cases, read in each direction. -/
theorem flagsChangeOnlyByTheirOperations : Obligations.FlagsChangeOnlyByTheirOperations := by
  intro s t i next
  have effect := effect_of_exec next
  have cmdValid := effect.cmdValid_cases
  have rplEmpty := effect.rplEmpty_cases
  have complete := effect.rxComplete_cases
  obtain ⟨cfg, host⟩ := effect.cfg_host
  refine ⟨cfg, host, fun before after => ?_, fun before after => ?_, fun before after => ?_,
    fun before after => ?_, fun before after => ?_, fun before after => ?_,
    fun before after => ?_⟩
  · simpa [before, after] using complete
  · simpa [before, after] using complete
  · simpa [before, after] using complete
  · simpa [before, after, AsksForReply] using rplEmpty
  · simpa [before, after] using rplEmpty
  · simpa [before, after] using cmdValid
  · simpa [before, after] using cmdValid

/-! ### The sequencing states -/

/-- A header state stores at the offset of its own place in the order, and goes to the next one. -/
theorem rxOrder_of_headerPlace {state next : RxState} {off : Nat}
    (place : headerPlace state = some (off, next)) :
    off = rxOrder state ∧ rxOrder next = rxOrder state + 1 := by
  cases state <;> cases place <;> exact ⟨rfl, rfl⟩

/-- A stored byte moves the decoder to the next state, or on in the payload, or over an empty
one. -/
theorem RxStores.moves {s : State} {b : Byte} {off cnt : Nat} {next : RxState}
    (place : RxStores s b off next cnt) :
    rxOrder next = rxOrder s.rxState + 1 ∨ (s.rxState = .payload ∧ next = .payload) ∨
      (s.rxState = .opcode ∧ next = .complete ∧
        ∃ len, bufRead s.rx offLen = some len ∧ pldLen len = 0) := by
  cases place with
  | startA state | startB state | length state | opcode state => exact .inl (by rw [state]; rfl)
  | header place => exact .inl (rxOrder_of_headerPlace place).2
  | lastOpcode state held empty => exact .inr (.inr ⟨state, rfl, _, held, empty⟩)
  | payload state held inside =>
    split
    · exact .inl (by rw [state]; rfl)
    · exact .inr (.inl ⟨state, rfl⟩)

/-- Settles O55: the decoder is driven by three operations, and of these a byte stores, is noise, is
declined, or ends the reception. -/
theorem theDecoderMovesForwardByOneByte : Obligations.TheDecoderMovesForwardByOneByte := by
  intro s t i next
  refine ⟨fun differs => ?_, fun drops => ?_, fun b received => ?_⟩
  · rcases (effect_of_exec next).decoder with ⟨-, state, cnt⟩ | drives
    · exact absurd cnt (differs.resolve_left (not_not.2 state))
    · exact drives
  · rcases drops with rfl | rfl <;> cases next <;> exact ⟨rfl, rfl⟩
  · subst received
    cases rxEffect_of_exec next with
    | noise state => exact .inr (.inl ⟨rfl, .inl state⟩)
    | declines state => exact .inr (.inl ⟨rfl, .inr (.inr state)⟩)
    | discards mismatch => exact .inr (.inr (.inl ⟨rfl, mismatch.imp And.left And.left⟩))
    | stores place =>
      rcases place.moves with forward | ⟨state, rfl⟩ | ⟨state, rfl, empty⟩
      · exact .inl forward
      · exact .inr (.inl ⟨state.symm, .inr (.inl state)⟩)
      · exact .inr (.inr (.inr ⟨state, rfl, empty⟩))

/-! ### The canonical form of the buffers -/

/-- No byte is stored above offset 257 (R33, R34). -/
theorem RxStores.off_lt {s : State} {b : Byte} {off cnt : Nat} {next : RxState}
    (place : RxStores s b off next cnt) : off < frameMax := by
  cases place with
  | header place =>
    obtain ⟨rfl, -⟩ := rxOrder_of_headerPlace place
    cases s.rxState <;> decide
  | payload state held inside => exact inside
  | startA | startB | length | opcode | lastOpcode => decide

theorem Template.length_le {c : Cfg} {q : Request} {d : DeviceState} {op : Byte}
    {payload : List Byte} (template : Template c q d op payload) : payload.length ≤ pldMax := by
  cases template <;>
    simp only [List.length_nil, List.length_cons, List.length_append, List.length_replicate,
      leBytes_length, telemLen, pldMax] <;> omega

theorem defaultLen_le (kind : PayloadClass) : defaultLen kind ≤ pldMax := by
  cases kind <;> decide

/-- A payload that fits in a frame, and its length byte, are stored inside the buffer. -/
theorem bufferWf_storePayload {l : List Byte} {s : State} (wf : bufferWf s.cmd = true)
    (fits : l.length ≤ pldMax) : bufferWf (storePayload l s).cmd = true := by
  rw [storePayload_cmd]
  exact bufferWf_bufWriteAll _ (bufferWf_bufWriteAll l wf (Nat.add_le_add_left fits offPld))
    (show offLen + 1 ≤ frameMax by decide)

theorem bufferWf_loadCmd {l : List Byte} {s : State} (fits : l.length ≤ frameMax) :
    bufferWf (loadCmd l s).cmd = true := by
  rw [loadCmd_cmd]
  exact bufferWf_bufWriteAll l bufferWf_nil (by rwa [Nat.zero_add])

theorem RxEffect.wf {s t : State} {b : Byte} (effect : RxEffect s b t)
    (wf : bufferWf s.rx = true) : bufferWf t.rx = true := by
  cases effect with
  | noise | declines => exact wf
  | discards => rfl
  | stores place => exact bufferWf_bufWrite b wf place.off_lt

theorem SetterEffect.wf {s t : State} {i : Instr} (effect : SetterEffect i s t)
    (wf : bufferWf s.cmd = true) : bufferWf t.cmd = true := by
  cases effect with
  | ignored => exact wf
  | sets held payload => exact bufferWf_storePayload wf payload.length_le
  | pageNumber p held => exact bufferWf_bufWriteAll [p] wf (show offPld + 1 ≤ frameMax by decide)

theorem AnswerEffect.wf {s t : State} {q : Request} {d : DeviceState}
    (effect : AnswerEffect q d s t) (wf : bufferWf s.rpl = true) : bufferWf t.rpl = true := by
  cases effect with
  | reports => exact wf
  | replies complete idle template =>
    rw [replyState_rpl]
    refine bufferWf_bufWriteAll _ wf ?_
    rw [frameOf_length, Nat.zero_add]
    exact Nat.add_le_add_left template.length_le offPld

/-- Settles O52: every effect changes one buffer at most, by writes below 258, or empties it. -/
theorem everyInstructionKeepsTheMemoryCanonical :
    Obligations.EveryInstructionKeepsTheMemoryCanonical := by
  intro s t i canonical next
  obtain ⟨rx, cmd, rpl⟩ := memoryWf_iff.1 canonical
  rw [memoryWf_iff]
  cases effect_of_exec next with
  | reports => exact ⟨rx, cmd, rpl⟩
  | receives effect =>
    obtain ⟨⟨cmdSame, -⟩, ⟨rplSame, -⟩, -⟩ := effect.frame
    exact ⟨effect.wf rx, cmdSame ▸ cmd, rplSame ▸ rpl⟩
  | clears => exact ⟨rfl, cmd, rpl⟩
  | resets => exact ⟨rfl, rfl, rfl⟩
  | loads op hwid msgid src dst =>
    have fits : (newFrame s.cfg op hwid msgid src dst).length ≤ frameMax := by
      rw [newFrame_length]
      exact Nat.add_le_add_left (defaultLen_le _) offPld
    rw [emit_cmd]
    exact ⟨rx, bufferWf_loadCmd fits, rpl⟩
  | sets _ effect =>
    obtain ⟨⟨rxSame, -⟩, -, ⟨rplSame, -⟩, -⟩ := effect.frame
    exact ⟨rxSame ▸ rx, effect.wf cmd, rplSame ▸ rpl⟩
  | answers _ effect =>
    obtain ⟨⟨rxSame, -⟩, ⟨cmdSame, -⟩, -⟩ := effect.frame
    exact ⟨rxSame ▸ rx, cmdSame ▸ cmd, effect.wf rpl⟩
  | drops => exact ⟨rx, cmd, rfl⟩

end Sys2Proof.Machine
end

section
/-! Proofs about the invariant of 10_state.md R36: it holds at reset, and every effect keeps it,
each unit's part by that unit's operations. -/

namespace Sys2Proof.Machine

/-! ### What the invariant of each unit depends on -/

section
variable {s t : State}

theorem FdInv.congr (inv : FdInv s) (same : SameFd s t) (cfg : t.cfg = s.cfg) : FdInv t := by
  obtain ⟨rx, state, cnt⟩ := same
  have written : rxPrefix t = rxPrefix s := by simp only [rxPrefix, rx, state, cnt]
  exact {
    held := by rw [rx, written]; exact inv.held
    startA := by rw [rx, state, cfg]; exact inv.startA
    startB := by rw [rx, state, cfg]; exact inv.startB
    len := by rw [rx, state]; exact inv.len
    idle := by rw [state, cnt]; exact inv.idle
    payload := by rw [rx, state, cnt]; exact inv.payload
    complete := by rw [rx, state, cnt]; exact inv.complete }

theorem CeInv.congr (inv : CeInv s) (same : SameCe s t) (cfg : t.cfg = s.cfg) : CeInv t := by
  obtain ⟨cmd, valid⟩ := same
  exact {
    invalid := by rw [cmd, valid]; exact inv.invalid
    marked := by rw [cmd, valid, cfg]; exact inv.marked
    whole := by rw [cmd, valid, cfg]; exact inv.whole }

/-- An output is no part of the encoder. -/
theorem CeInv.emit (inv : CeInv s) (o : Output) : CeInv (emit o s) := inv.congr ⟨rfl, rfl⟩ rfl

theorem RdInv.congr (inv : RdInv s) (same : SameRd s t) (cfg : t.cfg = s.cfg) : RdInv t := by
  obtain ⟨rpl, empty⟩ := same
  exact {
    empty := by rw [rpl, empty]; exact inv.empty
    marked := by rw [rpl, empty, cfg]; exact inv.marked
    whole := by rw [rpl, empty]; exact inv.whole }

/-- The operations yet to be issued are no part of the invariant. -/
theorem Inv.withHost (inv : Inv s) (host : List Instr) : Inv { s with host := host } :=
  ⟨inv.cfg, inv.fd.congr ⟨rfl, rfl, rfl⟩ rfl, inv.ce.congr ⟨rfl, rfl⟩ rfl,
    inv.rd.congr ⟨rfl, rfl⟩ rfl⟩

/-! ### The decoder's part -/

theorem rxPrefix_of_early (early : rxOrder t.rxState < 9) : rxPrefix t = rxOrder t.rxState := by
  unfold rxPrefix
  split
  next state => exact absurd early (by rw [state]; decide)
  next state => exact absurd early (by rw [state]; decide)
  next => rfl

/-- Up to the opcode, the bytes written are those below the state's place `n` in the order. -/
theorem fdInv_header {n : Nat} (order : rxOrder t.rxState = n) (early : n < 9)
    (held : HoldsPrefix t.rx n) (cnt : t.rxCnt = 0)
    (startA : 1 ≤ n → bufRead t.rx offStartA = some t.cfg.startA)
    (startB : 2 ≤ n → bufRead t.rx offStartB = some t.cfg.startB)
    (len : 3 ≤ n → ∃ len, bufRead t.rx offLen = some len ∧ lenMin ≤ len.toNat) : FdInv t := by
  subst order
  exact {
    held := by rwa [rxPrefix_of_early early]
    startA := by
      intro started
      apply startA
      cases state : t.rxState
      case awaitStart0 => exact absurd state started
      all_goals exact Nat.succ_pos _
    startB := startB
    len := len
    idle := fun _ _ => cnt
    payload := fun state => absurd early (by rw [state]; decide)
    complete := fun state => absurd early (by rw [state]; decide) }

/-- From the opcode on, the bytes written are the header and the payload bytes counted. -/
theorem fdInv_body {len : Byte} (marked : Marked t.cfg t.rx)
    (third : bufRead t.rx offLen = some len) (legal : lenMin ≤ len.toNat)
    (held : HoldsPrefix t.rx (offPld + t.rxCnt))
    (phase : t.rxState = .payload ∧ t.rxCnt < pldLen len ∨
      t.rxState = .complete ∧ t.rxCnt = pldLen len) : FdInv t where
  held := by
    rcases phase with ⟨state, -⟩ | ⟨state, reached⟩
    · simpa only [rxPrefix, state] using held
    · have whole : len.toNat + overhead = offPld + t.rxCnt := by
        simp only [reached, pldLen, hdrCounted, lenMin, overhead, offPld] at *
        omega
      simp only [rxPrefix, state, third, whole]
      exact held
  startA := fun _ => marked.1
  startB := fun _ => marked.2
  len := fun _ => ⟨len, third, legal⟩
  idle := fun notPayload notComplete => absurd phase (by simp [notPayload, notComplete])
  payload := fun state => ⟨len, third, by simpa [state] using phase⟩
  complete := fun state => ⟨len, third, by simpa [state] using phase⟩

/-- A decoder that has received nothing. -/
theorem fdInv_idle (state : t.rxState = .awaitStart0) (cnt : t.rxCnt = 0) (rx : t.rx = []) :
    FdInv t := by
  exact fdInv_header (congrArg rxOrder state) (by decide) (congrArg (List.map Prod.fst) rx) cnt
    (fun late => absurd late (by decide)) (fun late => absurd late (by decide))
    (fun late => absurd late (by decide))

/-- The header states are those from the length byte's successor to the opcode's predecessor. -/
theorem order_of_headerPlace {state next : RxState} {off : Nat}
    (place : headerPlace state = some (off, next)) : 3 ≤ rxOrder state ∧ rxOrder state < 8 := by
  cases state <;> cases place <;> decide

theorem FdInv.legal_of_length {len : Byte} (inv : FdInv s) (third : bufRead s.rx offLen = some len)
    (late : 3 ≤ rxOrder s.rxState) : lenMin ≤ len.toNat := by
  obtain ⟨held, thirdHeld, legal⟩ := inv.len late
  obtain rfl : held = len := Option.some.inj (thirdHeld.symm.trans third)
  exact legal

theorem FdInv.room {len : Byte} (inv : FdInv s) (third : bufRead s.rx offLen = some len)
    (state : s.rxState = .payload) : s.rxCnt < pldLen len := by
  obtain ⟨held, thirdHeld, room⟩ := inv.payload state
  obtain rfl : held = len := Option.some.inj (thirdHeld.symm.trans third)
  exact room

variable {b : Byte}

/-- A byte is stored behind those already written. -/
theorem RxStores.rxPrefix_eq {off cnt : Nat} {next : RxState} (place : RxStores s b off next cnt) :
    rxPrefix s = off := by
  cases place with
  | header place =>
    rw [(rxOrder_of_headerPlace place).1, rxPrefix_of_early]
    exact (order_of_headerPlace place).2.trans (by decide)
  | startA state | startB state | length state | opcode state | lastOpcode state =>
    simp only [rxPrefix, state, rxOrder]
  | payload state => simp only [rxPrefix, state]

/-- A stored byte keeps the decoder's part, one byte more being written. -/
theorem FdInv.rxStored {off cnt : Nat} {next : RxState} (inv : FdInv s)
    (place : RxStores s b off next cnt) : FdInv (rxStored off b next cnt s) := by
  have written := inv.held
  rw [place.rxPrefix_eq] at written
  have held : HoldsPrefix (bufWrite s.rx off b) (off + 1) := by
    have extended := holdsPrefix_bufWrite b written le_rfl
    rwa [max_eq_right (Nat.le_succ off)] at extended
  have here : bufRead (bufWrite s.rx off b) off = some b := bufRead_bufWrite_same s.rx off b
  have same {a : Nat} (other : a ≠ off) : bufRead (bufWrite s.rx off b) a = bufRead s.rx a :=
    bufRead_bufWrite_other s.rx b other
  have startA (started : s.rxState ≠ .awaitStart0) (behind : offStartA ≠ off) :
      bufRead (bufWrite s.rx off b) offStartA = some s.cfg.startA :=
    (same behind).trans (inv.startA started)
  have startB (started : 2 ≤ rxOrder s.rxState) (behind : offStartB ≠ off) :
      bufRead (bufWrite s.rx off b) offStartB = some s.cfg.startB :=
    (same behind).trans (inv.startB started)
  have idle (header : rxOrder s.rxState < 9) : s.rxCnt = 0 :=
    inv.idle (fun state => absurd header (by rw [state]; decide))
      (fun state => absurd header (by rw [state]; decide))
  cases place with
  | startA state mark =>
    exact fdInv_header (n := 1) rfl (by decide) held (idle (by rw [state]; decide))
      (fun _ => mark ▸ here) (fun late => absurd late (by decide))
      (fun late => absurd late (by decide))
  | startB state mark =>
    exact fdInv_header (n := 2) rfl (by decide) held (idle (by rw [state]; decide))
      (fun _ => startA (by rw [state]; decide) (by decide)) (fun _ => mark ▸ here)
      (fun late => absurd late (by decide))
  | length state legal =>
    exact fdInv_header (n := 3) rfl (by decide) held rfl
      (fun _ => startA (by rw [state]; decide) (by decide))
      (fun _ => startB (by rw [state]; decide) (by decide)) (fun _ => ⟨b, here, legal⟩)
  | header place =>
    obtain ⟨late, early⟩ := order_of_headerPlace place
    obtain ⟨rfl, following⟩ := rxOrder_of_headerPlace place
    obtain ⟨len, third, legal⟩ := inv.len late
    have behind {k : Nat} (low : k < 3) : k ≠ rxOrder s.rxState := (low.trans_le late).ne
    have started : s.rxState ≠ .awaitStart0 := fun state => absurd late (by rw [state]; decide)
    exact fdInv_header following (by omega) held (idle (by omega))
      (fun _ => startA started (behind (by decide)))
      (fun _ => startB (by omega) (behind (by decide)))
      (fun _ => ⟨len, (same (behind (by decide))).trans third, legal⟩)
  | @opcode len state third declared =>
    exact fdInv_body
      ⟨startA (by rw [state]; decide) (by decide), startB (by rw [state]; decide) (by decide)⟩
      ((same (by decide)).trans third) (inv.legal_of_length third (by rw [state]; decide)) held
      (.inl ⟨rfl, declared⟩)
  | @lastOpcode len state third empty =>
    have cnt : s.rxCnt = 0 := idle (by rw [state]; decide)
    exact fdInv_body
      ⟨startA (by rw [state]; decide) (by decide), startB (by rw [state]; decide) (by decide)⟩
      ((same (by decide)).trans third) (inv.legal_of_length third (by rw [state]; decide))
      (by rw [rxStored_rxCnt, cnt]; exact held) (.inr ⟨rfl, cnt.trans empty.symm⟩)
  | @payload len state third inside =>
    have behind {k : Nat} (header : k < offPld) : k ≠ offPld + s.rxCnt :=
      (header.trans_le (Nat.le_add_right _ _)).ne
    refine fdInv_body
      ⟨startA (by rw [state]; decide) (behind (by decide)),
        startB (by rw [state]; decide) (behind (by decide))⟩
      ((same (behind (by decide))).trans third)
      (inv.legal_of_length third (by rw [state]; decide)) held ?_
    by_cases reached : s.rxCnt + 1 = pldLen len
    · exact .inr ⟨if_pos reached, reached⟩
    · exact .inl ⟨if_neg reached, lt_of_le_of_ne (inv.room third state) reached⟩

/-- Every received byte keeps the decoder's part. -/
theorem FdInv.receives (inv : FdInv s) (effect : RxEffect s b t) : FdInv t := by
  cases effect with
  | noise | declines => exact inv.congr ⟨rfl, rfl, rfl⟩ rfl
  | discards => exact fdInv_idle rfl rfl rfl
  | stores place => exact inv.rxStored place

end

/-! ### The encoder's part -/

section
variable {s t : State}

theorem ceInv_none (invalid : s.cmdValid = false) (cmd : s.cmd = []) : CeInv s where
  invalid := fun _ => cmd
  marked := fun valid => absurd (invalid.symm.trans valid) (by decide)
  whole := fun valid => absurd (invalid.symm.trans valid) (by decide)

/-- A valid whole frame of a legal length. -/
theorem ceInv_frame {n : Nat} {len op : Byte} (valid : s.cmdValid = true)
    (marked : Marked s.cfg s.cmd) (held : HoldsPrefix s.cmd n) (fits : n ≤ frameMax)
    (third : bufRead s.cmd offLen = some len)
    (opcode : bufRead s.cmd offOpcode = some op) (whole : len.toNat + overhead ≤ n)
    (legal : cmdLenLegal (classOf s.cfg op) len.toNat) : CeInv s where
  invalid := fun invalid => absurd (invalid.symm.trans valid) (by decide)
  marked := fun _ => marked
  whole := fun _ => ⟨n, len, op, held, fits, third, opcode, whole, legal⟩

/-- The default length of every class is a legal one (R153, R162). -/
theorem cmdLenLegal_default (kind : PayloadClass) :
    cmdLenLegal kind (hdrCounted + defaultLen kind) := by
  cases kind <;> simp [cmdLenLegal, defaultLen, hdrCounted, timeLen, telemLen]

/-- The length of every payload that a setter writes is legal in a frame of its opcode (R162). -/
theorem Sets.legal {c : Cfg} {i : Instr} {op : Byte} {l : List Byte} (wellFormed : c.WellFormed)
    (payload : Sets c i op l) : cmdLenLegal (classOf c op) (hdrCounted + l.length) := by
  obtain ⟨reboot, setTime, telemetry, writePage, ascii, data⟩ := classOf_named wellFormed
  cases payload with
  | delay => rw [reboot, leBytes_length]; exact .inr rfl
  | time => rw [setTime, List.length_append, leBytes_length, leBytes_length]; rfl
  | telem size => rw [telemetry, size]; rfl
  | page size => rw [writePage, List.length_cons, size]; exact .inr rfl
  | ascii size =>
    rw [ascii]
    simp only [cmdLenLegal, hdrCounted, pldMax] at *
    omega
  | data size =>
    rw [data, dataPayload_length]
    simp only [cmdLenLegal, hdrCounted, dataMax] at *
    omega

/-- The header of a frame that stands from offset 0. -/
theorem header_of_stands {b : Buffer} {c : Cfg} {op : Byte} {q : Request}
    (stands : Stands b 0 (frameOf c op q)) :
    Marked c b ∧ bufRead b offLen = some (lenByte q.payload.length) ∧
      bufRead b offOpcode = some op := by
  have at_offset {k : Nat} (header : k < offPld) : bufRead b k = (frameOf c op q)[k]? := by
    rw [← stands k (by rw [frameOf_length]; omega), Nat.zero_add]
  simp only [frameOf_eq] at at_offset
  exact ⟨⟨at_offset (by decide), at_offset (by decide)⟩, at_offset (by decide),
    at_offset (by decide)⟩

/-- Bytes written to an empty buffer fill it up to their number. -/
theorem holdsPrefix_written (l : List Byte) : HoldsPrefix (bufWriteAll [] 0 l) l.length := by
  have filled := holdsPrefix_bufWriteAll (b := []) (n := 0) l rfl le_rfl
  rwa [Nat.zero_add, Nat.zero_max] at filled

theorem lenByte_whole {n : Nat} (fits : n ≤ pldMax) :
    (lenByte n).toNat + overhead = offPld + n := by
  rw [lenByte_toNat fits]
  simp only [hdrCounted, overhead, offPld]
  omega

/-- Loading a frame of a legal length leaves a valid whole frame. -/
theorem ceInv_loadCmd {op : Byte} {q : Request} (fits : q.payload.length ≤ pldMax)
    (legal : cmdLenLegal (classOf s.cfg op) (hdrCounted + q.payload.length)) :
    CeInv (loadCmd (frameOf s.cfg op q) s) := by
  obtain ⟨marked, third, opcode⟩ := header_of_stands (loadCmd_stands (frameOf s.cfg op q) s)
  have filled : HoldsPrefix (loadCmd (frameOf s.cfg op q) s).cmd (offPld + q.payload.length) := by
    rw [loadCmd_cmd, ← frameOf_length s.cfg op q]
    exact holdsPrefix_written _
  exact ceInv_frame rfl marked filled (Nat.add_le_add_left fits offPld)
    third opcode (lenByte_whole fits).le (by rw [lenByte_toNat fits]; exact legal)

/-- TX_NEW leaves a valid whole frame of its class's default length. -/
theorem ceInv_newFrame (op : Byte) (hwid msgid : U16) (src dst : U4) :
    CeInv (loadCmd (newFrame s.cfg op hwid msgid src dst) s) := by
  apply ceInv_loadCmd <;> rw [List.length_replicate]
  · exact defaultLen_le _
  · exact cmdLenLegal_default _

/-- A payload of legal length, stored in a valid frame, leaves a valid whole frame. -/
theorem CeInv.storePayload {op : Byte} {l : List Byte} (inv : CeInv s) (held : HoldsCommand s op)
    (fits : l.length ≤ pldMax) (legal : cmdLenLegal (classOf s.cfg op) (hdrCounted + l.length)) :
    CeInv (storePayload l s) := by
  obtain ⟨valid, opcode⟩ := held
  obtain ⟨n, -, -, filled, bound, -, -, -, -⟩ := inv.whole valid
  obtain ⟨markA, markB⟩ := inv.marked valid
  have header {k : Nat} (low : k < offPld) (other : k ≠ offLen) :
      bufRead (Machine.storePayload l s).cmd k = bufRead s.cmd k :=
    storePayload_outside l s k other (.inl low)
  have atLeast : offPld ≤ n :=
    (holdsPrefix_isSome filled).1 (opcode ▸ rfl : (bufRead s.cmd offOpcode).isSome)
  have refilled : HoldsPrefix (Machine.storePayload l s).cmd
      (max (max n (offPld + l.length)) (offLen + 1)) :=
    holdsPrefix_bufWriteAll [lenByte l.length] (holdsPrefix_bufWriteAll l filled atLeast)
      (le_max_of_le_left (le_trans (by decide) atLeast))
  have whole := lenByte_whole fits
  refine ceInv_frame valid ⟨(header (by decide) (by decide)).trans markA,
    (header (by decide) (by decide)).trans markB⟩ refilled ?_ (storePayload_len l s)
    ((header (by decide) (by decide)).trans opcode) ?_ (by rw [lenByte_toNat fits]; exact legal)
  · simp only [offPld, offLen, frameMax, pldMax] at *
    omega
  · rw [whole]
    exact le_max_of_le_left (le_max_right _ _)

/-- The page number, stored in a valid frame, leaves its length and its validity. -/
theorem CeInv.storePageNumber (inv : CeInv s) (p : Byte) (valid : s.cmdValid = true) :
    CeInv (storeCmd offPld [p] s) := by
  obtain ⟨n, len, op, filled, bound, third, opcode, whole, legal⟩ := inv.whole valid
  obtain ⟨markA, markB⟩ := inv.marked valid
  have header {k : Nat} (low : k < offPld) :
      bufRead (storeCmd offPld [p] s).cmd k = bufRead s.cmd k :=
    sameOutside_storeCmd_one offPld p s k (.inl low)
  have atLeast : offPld ≤ n :=
    (holdsPrefix_isSome filled).1 (opcode ▸ rfl : (bufRead s.cmd offOpcode).isSome)
  have refilled : HoldsPrefix (storeCmd offPld [p] s).cmd (max n (offPld + 1)) :=
    holdsPrefix_bufWriteAll [p] filled atLeast
  exact ceInv_frame valid
    ⟨(header (by decide)).trans markA, (header (by decide)).trans markB⟩ refilled
    (max_le bound (by decide)) ((header (by decide)).trans third)
    ((header (by decide)).trans opcode) (whole.trans (le_max_left _ _)) legal

/-- Every setter keeps the encoder's part. -/
theorem CeInv.sets {i : Instr} (inv : CeInv s) (wellFormed : s.cfg.WellFormed)
    (effect : SetterEffect i s t) : CeInv t := by
  cases effect with
  | ignored => exact inv.congr ⟨rfl, rfl⟩ rfl
  | sets held payload =>
    exact (inv.storePayload held payload.length_le (payload.legal wellFormed)).emit .nothing
  | pageNumber p held => exact (inv.storePageNumber p held.1).emit .nothing

end

/-! ### The reply demultiplexer's part -/

section
variable {s t : State}

theorem rdInv_none (idle : s.rplEmpty = true) (rpl : s.rpl = []) : RdInv s where
  empty := fun _ => rpl
  marked := fun pending => absurd (idle.symm.trans pending) (by decide)
  whole := fun pending => absurd (idle.symm.trans pending) (by decide)

/-- The templates' payloads have four lengths, and so the replies (R36 (f)). -/
theorem Template.length_mem {c : Cfg} {q : Request} {d : DeviceState} {op : Byte}
    {payload : List Byte} (template : Template c q d op payload) :
    hdrCounted + payload.length ∈ [6, 7, 14, 84] := by
  cases template <;>
    simp [leBytes_length, telemLen, hdrCounted]

/-- Every answer keeps the reply demultiplexer's part: a reply is written to an empty buffer. -/
theorem RdInv.answers {q : Request} {d : DeviceState} (inv : RdInv s)
    (effect : AnswerEffect q d s t) : RdInv t := by
  cases effect with
  | reports => exact inv.congr ⟨rfl, rfl⟩ rfl
  | @replies op payload complete idle template =>
    have stands :
        Stands (replyState op payload q s).rpl 0 (frameOf s.cfg op (bounce q payload)) := by
      rw [replyState_rpl]
      exact stands_bufWriteAll _ _ _
    obtain ⟨marked, third, -⟩ := header_of_stands stands
    have fits := template.length_le
    have filled : HoldsPrefix (replyState op payload q s).rpl
        ((lenByte payload.length).toNat + overhead) := by
      have written := holdsPrefix_written (frameOf s.cfg op (bounce q payload))
      rw [frameOf_length, bounce_payload] at written
      rwa [replyState_rpl, inv.empty idle, lenByte_whole fits]
    exact {
      empty := fun empty => absurd empty Bool.false_ne_true
      marked := fun _ => marked
      whole := fun _ => ⟨_, third, filled, by
        rw [bounce_payload, lenByte_toNat fits]
        exact template.length_mem⟩ }

end

/-! ### Every step -/

theorem Cfg0_wellFormed : Cfg0.WellFormed := ⟨by decide, rfl, rfl, rfl, rfl⟩

/-- Settles O48: nothing is received, valid or pending. -/
theorem resetMeetsTheInvariant : Obligations.ResetMeetsTheInvariant :=
  ⟨Cfg0_wellFormed, fdInv_idle rfl rfl rfl, ceInv_none rfl rfl, rdInv_none rfl rfl⟩

/-- Every effect keeps the invariant: the part of the unit that it changes by that unit's lemma, the
others because they are as before. -/
theorem Inv.effect {s t : State} {i : Instr} (inv : Inv s) (effect : Effect s i t) : Inv t := by
  obtain ⟨cfg, -⟩ := effect.cfg_host
  have wellFormed : t.cfg.WellFormed := cfg ▸ inv.cfg
  have fd (same : SameFd s t) := inv.fd.congr same cfg
  have ce (same : SameCe s t) := inv.ce.congr same cfg
  have rd (same : SameRd s t) := inv.rd.congr same cfg
  cases effect with
  | reports => exact ⟨wellFormed, fd ⟨rfl, rfl, rfl⟩, ce ⟨rfl, rfl⟩, rd ⟨rfl, rfl⟩⟩
  | receives effect =>
    obtain ⟨sameCe, sameRd, -⟩ := effect.frame
    exact ⟨wellFormed, inv.fd.receives effect, ce sameCe, rd sameRd⟩
  | clears => exact ⟨wellFormed, fdInv_idle rfl rfl rfl, ce ⟨rfl, rfl⟩, rd ⟨rfl, rfl⟩⟩
  | resets => exact ⟨wellFormed, fdInv_idle rfl rfl rfl, ceInv_none rfl rfl, rdInv_none rfl rfl⟩
  | loads =>
    exact ⟨wellFormed, fd ⟨rfl, rfl, rfl⟩, (ceInv_newFrame ..).emit .nothing,
      rd ⟨rfl, rfl⟩⟩
  | sets _ effect =>
    obtain ⟨sameFd, -, sameRd, -⟩ := effect.frame
    exact ⟨wellFormed, fd sameFd, inv.ce.sets inv.cfg effect, rd sameRd⟩
  | answers _ effect =>
    obtain ⟨sameFd, sameCe, -⟩ := effect.frame
    exact ⟨wellFormed, fd sameFd, ce sameCe, inv.rd.answers effect⟩
  | drops => exact ⟨wellFormed, fd ⟨rfl, rfl, rfl⟩, ce ⟨rfl, rfl⟩, rdInv_none rfl rfl⟩

/-- Settles O49: a step changes nothing or performs an operation, whose effect keeps the
invariant. -/
theorem everyStepKeepsTheInvariant : Obligations.EveryStepKeepsTheInvariant := by
  intro s t inv stepped
  rcases step_next stepped with ⟨-, rfl⟩ | ⟨i, rest, -, -, next⟩
  · exact inv
  · exact (inv.withHost rest).effect (effect_of_exec next)

end Sys2Proof.Machine
end

section
/-! Proofs about progress: from a state with the invariant every operation has a next state, but for
the four inputs the spec refuses (R10, R261). -/

namespace Sys2Proof.Machine

/-- The four inputs the spec refuses: U6, U5, U3 and U4 of 93_implementation_defined.md. -/
def RefusedInput (s : State) (i : Instr) : Prop :=
  (i = .txSerialize ∧ s.cmdValid = false) ∨
  (∃ vals, i = .txSetData vals ∧ 124 < vals.length ∧ HoldsCommand s s.cfg.opcDataRecord) ∨
  (∃ d q, i = .replyGen d ∧ s.rplEmpty = true ∧ HoldsRequest s s.cfg.opcReboot q ∧
    q.payload.length ≠ 0 ∧ q.payload.length ≠ 4) ∨
  (∃ d q, i = .replyGen d ∧ s.rplEmpty = true ∧
    HoldsRequest s s.cfg.opcBootloaderWritePage q ∧ q.payload = [] ∧
    d.bootMode = true ∧ d.flashWriteOk = true)

/-- Each of the four inputs is refused. -/
theorem refused_of_refusedInput {s : State} {i : Instr} (wellFormed : s.cfg.WellFormed)
    (input : RefusedInput s i) : ∃ r, exec i s = .refused r := by
  rcases input with ⟨rfl, invalid⟩ | ⟨vals, rfl, long, held⟩ |
    ⟨d, q, rfl, idle, held, nonempty, other⟩ | ⟨d, q, rfl, idle, held, empty, boot, writable⟩
  · exact ⟨_, exec_txSerialize_invalid invalid⟩
  · exact ⟨_, (setter_applies _ held).trans (if_pos long)⟩
  · obtain ⟨-, -, refused⟩ := rebootIsAnsweredByTheDelayThreshold s q d wellFormed idle held
    exact ⟨_, (refused nonempty other).2⟩
  · obtain ⟨-, -, echo⟩ := writePageEchoesThePageNumber s q d wellFormed idle held
    exact ⟨_, ((echo boot writable).2 empty).2⟩

/-! ### Whole frames under the invariant -/

/-- A buffer that holds a length byte and as many bytes as it declares holds a frame. -/
theorem frameIn_of_holdsPrefix {b : Buffer} {n : Nat} {len : Byte} (held : HoldsPrefix b n)
    (third : bufRead b offLen = some len) (whole : len.toNat + overhead ≤ n) :
    ∃ bytes, FrameIn b bytes := by
  obtain ⟨bytes, read⟩ := holdsPrefix_read held whole
  obtain ⟨length, stands⟩ := bufReadAll_eq_some.1 read
  exact ⟨bytes, stands, len, third, length⟩

/-! ### The operations of the decoder and the two serializers -/

section
variable {s : State}

/-- Under the invariant every byte is received. -/
theorem FdInv.exec_rxByte_next (inv : FdInv s) (b : Byte) : ∃ t, exec (.rxByte b) s = .next t := by
  cases state : s.rxState
  case awaitStart0 =>
    obtain ⟨t, next, -⟩ := awaitStart0AcceptsOnlyTheFirstMarker s b state
    exact ⟨t, next⟩
  case awaitStart1 =>
    obtain ⟨t, next, -⟩ := awaitStart1AdvancesOrResynchronises s b state
    exact ⟨t, next⟩
  case awaitLength =>
    obtain ⟨t, next, -⟩ := awaitLengthAcceptsSixAndAbove s b state
    exact ⟨t, next⟩
  case hwidLsb | hwidMsb | msgIdLsb | msgIdMsb | destId =>
    exact ⟨_, exec_rxByte_header b (congrArg headerPlace state)⟩
  case opcode =>
    obtain ⟨len, third, legal⟩ := inv.len (by rw [state]; decide)
    obtain ⟨t, next, -⟩ := opcodeByteSkipsAnEmptyPayload s b len state third legal
    exact ⟨t, next⟩
  case payload =>
    obtain ⟨len, third, room⟩ := inv.payload state
    exact ⟨_, exec_rxByte_payload b state third room⟩
  case complete => exact ⟨_, exec_rxByte_declines state⟩

theorem FdInv.exec_rxRead_next (inv : FdInv s) : ∃ t, exec .rxRead s = .next t := by
  by_cases complete : s.rxState = .complete
  · obtain ⟨op, q, held⟩ := inv.holdsRequest complete
    exact ⟨_, exec_rxRead_complete complete held.frameIn⟩
  · exact ⟨_, exec_rxRead_incomplete complete⟩

theorem CeInv.exec_txSerialize_next (inv : CeInv s) (valid : s.cmdValid = true) :
    ∃ t, exec .txSerialize s = .next t := by
  obtain ⟨n, len, -, filled, -, third, -, whole, -⟩ := inv.whole valid
  obtain ⟨bytes, frameIn⟩ := frameIn_of_holdsPrefix filled third whole
  exact ⟨_, exec_txSerialize_valid valid frameIn⟩

theorem RdInv.exec_rplSerialize_next (inv : RdInv s) : ∃ t, exec .rplSerialize s = .next t := by
  cases pending : s.rplEmpty
  · obtain ⟨len, third, filled, -⟩ := inv.whole pending
    obtain ⟨bytes, frameIn⟩ := frameIn_of_holdsPrefix filled third le_rfl
    exact ⟨_, exec_rplSerialize_pending pending frameIn⟩
  · exact ⟨_, exec_rplSerialize_idle pending⟩

/-! ### The setters -/

/-- Under the invariant the command frame's opcode can be read: a setter applies or does not. -/
theorem CeInv.held_or_other (inv : CeInv s) (op : Byte) :
    HoldsCommand s op ∨ HoldsOtherCommand s op := by
  cases valid : s.cmdValid
  · exact .inr (.inl valid)
  · obtain ⟨_, _, held, -, -, -, opcode, -, -⟩ := inv.whole valid
    by_cases same : held = op
    · exact .inl ⟨valid, same ▸ opcode⟩
    · exact .inr (.inr ⟨held, opcode, same⟩)

/-- A setter whose rule has a next state where it applies has one under the invariant. -/
theorem CeInv.setter_completes (inv : CeInv s) {op : Byte} {a : Outcome}
    (applies : HoldsCommand s op → ∃ t, a = .next t) : ∃ t, setter op a s = .next t := by
  rcases inv.held_or_other op with held | other
  · rw [setter_applies a held]
    exact applies held
  · exact ⟨_, setter_other a other⟩

/-! ### The requests -/

variable {q : Request} {d : DeviceState} {a a' : Outcome}

theorem invoke_completes (answers : ∃ t, a = .next t) : ∃ t, invoke a s = .next t := by
  unfold invoke
  split
  · exact answers
  · exact ⟨_, rfl⟩

theorem ite_completes {p : Prop} [Decidable p] (yes : p → ∃ t, a = .next t)
    (no : ¬ p → ∃ t, a' = .next t) : ∃ t, (if p then a else a') = .next t := by
  split
  next holds => exact yes holds
  next fails => exact no fails

theorem reply_completes (op : Byte) (payload : List Byte) (q : Request) (s : State) :
    ∃ t, reply op payload q s = .next t := ⟨_, reply_eq_replyState op payload q s⟩

theorem replyInBootMode_completes (reason : Byte) (q : Request) (d : DeviceState) (s : State) :
    ∃ t, replyInBootMode reason q d s = .next t :=
  ite_completes (fun _ => reply_completes ..) (fun _ => reply_completes ..)

theorem unrecognizedReply_completes (q : Request) (s : State) :
    ∃ t, unrecognizedReply q s = .next t := by
  rcases unrecognizedReply_cases q s with ⟨-, silent⟩ | ⟨-, replies⟩
  · exact ⟨_, silent⟩
  · rw [replies]
    exact reply_completes ..

theorem execGetTime_completes : ∃ t, execGetTime q d s = .next t :=
  invoke_completes (ite_completes (fun _ => reply_completes ..) fun _ => reply_completes ..)

theorem execReboot_completes (legal : q.payload.length = 0 ∨ q.payload.length = delayLen) :
    ∃ t, execReboot q s = .next t :=
  invoke_completes <| ite_completes (fun _ => reply_completes ..) fun nonempty =>
    ite_completes (fun _ => ite_completes (fun _ => reply_completes ..) fun _ => reply_completes ..)
      fun other => absurd (legal.resolve_left nonempty) other

theorem execBootloaderWritePage_completes
    (legal : q.payload = [] → d.bootMode = true → d.flashWriteOk = true → False) :
    ∃ t, execBootloaderWritePage q d s = .next t := by
  refine invoke_completes <| ite_completes (fun boot => ite_completes (fun writable => ?_)
    fun _ => reply_completes ..) fun _ => reply_completes ..
  split
  next empty => exact absurd writable (legal empty boot)
  next => exact reply_completes ..

/-- The row of a request held in `RX` has a next state unless it is one of the two that are
refused. -/
theorem row_completes {op : Byte} (idle : s.rplEmpty = true) (held : HoldsRequest s op q) :
    (∃ t, exec (instrOf s.cfg op q d) s = .next t) ∨ RefusedInput s (.replyGen d) := by
  apply instrOf_ind (fun i => (∃ t, exec i s = .next t) ∨ RefusedInput s (.replyGen d))
  case reboot =>
    rintro rfl
    by_cases legal : q.payload.length = 0 ∨ q.payload.length = delayLen
    · exact .inl (execReboot_completes legal)
    · obtain ⟨nonempty, other⟩ := not_or.1 legal
      exact .inr (.inr (.inr (.inl ⟨d, q, rfl, idle, held, nonempty, other⟩)))
  case bootloaderWritePage =>
    rintro rfl
    by_cases refused : q.payload = [] ∧ d.bootMode = true ∧ d.flashWriteOk = true
    · exact .inr (.inr (.inr (.inr ⟨d, q, rfl, idle, held, refused⟩)))
    · exact .inl (execBootloaderWritePage_completes fun empty boot writable =>
        refused ⟨empty, boot, writable⟩)
  case getTime => exact fun _ => .inl execGetTime_completes
  case bootloaderPing | bootloaderErase | bootloaderJump =>
    exact fun _ => .inl (invoke_completes (replyInBootMode_completes ..))
  case dataRecord | unrecognized =>
    exact fun _ => .inl (invoke_completes (unrecognizedReply_completes ..))
  all_goals exact fun _ => .inl (invoke_completes (reply_completes ..))

theorem FdInv.exec_replyGen_next (inv : FdInv s) (d : DeviceState) :
    (∃ t, exec (.replyGen d) s = .next t) ∨ RefusedInput s (.replyGen d) := by
  by_cases complete : s.rxState = .complete
  · cases idle : s.rplEmpty
    · exact .inl ⟨_, exec_replyGen_notReady d (.inr idle)⟩
    · obtain ⟨op, q, held⟩ := inv.holdsRequest complete
      rw [exec_replyGen_of_holds held idle]
      exact row_completes idle held
  · exact .inl ⟨_, exec_replyGen_notReady d (.inl complete)⟩

end

/-! ### Every operation -/

/-- Under the invariant an operation has a next state unless it is one of the four refused
inputs. -/
theorem Inv.next_or_refusedInput {s : State} {i : Instr} (inv : Inv s)
    (operation : i.isOperation = true) : (∃ t, exec i s = .next t) ∨ RefusedInput s i := by
  cases i
  case rxByte b => exact .inl (inv.fd.exec_rxByte_next b)
  case rxRead => exact .inl inv.fd.exec_rxRead_next
  case rplSerialize => exact .inl inv.rd.exec_rplSerialize_next
  case replyGen d => exact inv.fd.exec_replyGen_next d
  case txSerialize =>
    cases valid : s.cmdValid
    · exact .inr (.inl ⟨rfl, valid⟩)
    · exact .inl (inv.ce.exec_txSerialize_next valid)
  case txSetDelay | txSetTime => exact .inl (inv.ce.setter_completes fun _ => ⟨_, rfl⟩)
  case txSetTelem | txSetAscii | txSetPage =>
    exact .inl (inv.ce.setter_completes fun _ =>
      ite_completes (fun _ => ⟨_, rfl⟩) fun _ => ⟨_, rfl⟩)
  case txSetData vals =>
    by_cases refused : dataMax < vals.length ∧ HoldsCommand s s.cfg.opcDataRecord
    · exact .inr (.inr (.inl ⟨vals, rfl, refused⟩))
    · exact .inl (inv.ce.setter_completes fun held =>
        ite_completes (fun long => absurd ⟨long, held⟩ refused) fun _ => ⟨_, rfl⟩)
  case reset | status | rxClear | txNew | rplClear => exact .inl ⟨_, rfl⟩
  all_goals cases operation

/-- Settles O51: an operation is refused on the four inputs, and on no other does it lack a next
state. -/
theorem exactlyFourInputsAreRefused : Obligations.ExactlyFourInputsAreRefused := by
  intro s i inv operation
  constructor
  · rintro ⟨t, next⟩ input
    obtain ⟨r, refused⟩ := refused_of_refusedInput inv.cfg input
    exact nomatch refused.symm.trans next
  · exact (inv.next_or_refusedInput operation).resolve_right

/-- Settles O50: the operation a step performs has a next state or is refused. -/
theorem soundStatesNeverFault : Obligations.SoundStatesNeverFault := by
  intro s inv f fault
  cases issued : s.host with
  | nil =>
    rw [stepWithoutOperationChangesNothing s issued] at fault
    cases fault
  | cons i rest =>
    cases operation : i.isOperation
    · simp only [step, fetch_cons issued, operation, Bool.false_eq_true, if_false] at fault
      cases fault
    · have inv := inv.withHost rest
      rw [step_of_host issued operation] at fault
      rcases inv.next_or_refusedInput operation with ⟨t, next⟩ | input
      · exact nomatch fault.symm.trans next
      · obtain ⟨r, refused⟩ := refused_of_refusedInput inv.cfg input
        exact nomatch fault.symm.trans refused

end Sys2Proof.Machine
end
